-- ==== Sys2Proof/Word.lean ====
section
/-! DEFINITION. The words of the SL-416: bytes, byte addresses, the eight data lanes of a doubleword
and the set of its lanes that a request or an entry holds. -/

namespace Sys2Proof

/-- One byte. -/
abbrev Byte := BitVec 8

/-- A 32-bit byte address (00_scope.md, "Addresses and sizes"). -/
abbrev Addr := BitVec 32

/-- The eight data lanes of a doubleword; lane k holds the byte at address + k (Table 2-1). -/
abbrev Lanes := Vector Byte 8

/-- A set of lanes as software and the D-port see it: bit k stands for lane k (Table 10-8, R143). -/
abbrev LaneMask := BitVec 8

/-- One of the four publish groups. -/
abbrev GroupId := Fin 4

/-- One of the eight regions. -/
abbrev RegionId := Fin 8

/-- An upstream tag, 0..15 (Table 8-1). -/
abbrev UTag := Fin 16

/-- A downstream tag, 0..19: 0..15 forwarded requests, 16..19 drain writes (section 8.1). -/
abbrev DTag := Fin 20

/-- Eight lanes of zeros. -/
def Lanes.zero : Lanes := Vector.replicate 8 0

end Sys2Proof
end

