-- ==== Sys2Proof/Syntax.lean ====
section
/-! DEFINITION. The commands of the SL-416: one constructor of `Instr` for each row of
spec/opcode_table.json, with the operands the spec gives the row. Operands that the part receives as
encoded bytes and judges itself (Table 10-6) are carried as those bytes. -/

namespace Sys2Proof

/-- Kind of a memory request (Table 8-1). -/
inductive ReqKind where
  | read
  | write
deriving DecidableEq, Repr

/-- Access size: 1, 2, 4 or 8 bytes, encoded 0..3 (Table 8-1). -/
inductive Size where
  | b1
  | b2
  | b4
  | b8
deriving DecidableEq, Repr

/-- Status of a downstream response (R143). -/
inductive MemStatus where
  | ok
  | err
deriving DecidableEq, Repr

/-- The five writable fields of a region record as the frame carries them (Table 10-6). -/
structure RegionFields where
  base : Addr
  sizeCode : Byte
  group : Byte
  view : Byte
  policy : Byte
deriving DecidableEq, Repr

/-- The five fields of a group record as the frame carries them (Table 10-6). -/
structure GroupFields where
  source : Byte
  divider : Byte
  quota : Byte
  holdPolicy : Byte
  pressureSeal : Byte
deriving DecidableEq, Repr

/-- The five writable fields of a watch record as the frame carries them (Table 10-6). -/
structure WatchFields where
  low : Addr
  high : Addr
  kinds : Byte
  decimation : Byte
  enable : Byte
deriving DecidableEq, Repr

/-- The bytes of a request that names nothing (R170): a kind byte, the class byte of a RECORD_READ or
RECORD_WRITE, or the code byte of an ACTION. -/
inductive BadRequest where
  | kind (k : Byte)
  | readClass (c : Byte)
  | writeClass (c : Byte)
  | actionCode (c : Byte)
deriving DecidableEq, Repr

/-- The commands, in the order of spec/opcode_table.json. -/
inductive Instr where
  /-- R137. The master presents a request; `data` is used for a WRITE alone. -/
  | upstreamRequest (tag : UTag) (kind : ReqKind) (addr : Addr) (size : Size) (data : Lanes)
  /-- R139. The master takes the head of the response queue. -/
  | responseDelivered
  /-- R144. The arbiter grants the D-port request channel. -/
  | arbiterGrant
  /-- R143. Memory takes the request held on the D-port request channel. -/
  | downstreamRequestTaken
  /-- R146. A response arrives on the D-port; `data` is used for a READ alone. -/
  | downstreamResponse (tag : DTag) (status : MemStatus) (data : Lanes)
  /-- R48. One prescaled tick. -/
  | tick
  /-- R53. The tick at which the count arrives at the active limit in mode UP or ONESHOT. -/
  | limit
  /-- R57. The tick at which the count wraps or descends to 0. -/
  | zero
  /-- R54. The tick at which the count arrives at the active limit in mode UPDOWN. -/
  | peak
  /-- R56. The tick at which the count arrives at the active mark going up. -/
  | markUp
  /-- R56. The tick at which the count arrives at the active mark going down. -/
  | markDown
  /-- R35. The tick at which the stalled write's elapsed count reaches STALL_LIMIT. -/
  | stallTimeout
  /-- R61. A detected rising edge of SYNC. -/
  | syncArrival
  /-- R122. HLD_N is low. -/
  | hldNAsserted
  /-- R123. HLD_N is high. -/
  | hldNDeasserted
  /-- R123. The tick at which the filter counter reaches HOLD_FILTER. -/
  | filterComplete
  /-- R151. RST_N is asserted. -/
  | hardwareReset
  /-- R171. RST_N is deasserted. -/
  | resetEnd
  /-- R170. CS_N rises. -/
  | csNRise
  /-- R170. A frame whose kind, class or action code names nothing. -/
  | nakFrame (bad : BadRequest)
  /-- R173. -/
  | regRead (reg : Byte)
  /-- R174. -/
  | regWrite (reg : Byte) (value : BitVec 32)
  /-- R50. -/
  | writeTimerMode (value : BitVec 32)
  /-- R47. -/
  | writePrescale (value : BitVec 32)
  /-- R52. -/
  | writePeriodLimit (value : BitVec 32)
  /-- R51. -/
  | writeMark (value : BitVec 32)
  /-- R61. -/
  | writeSyncMode (value : BitVec 32)
  /-- R121. -/
  | writeHoldFilter (value : BitVec 32)
  /-- R34. -/
  | writeStallLimit (value : BitVec 32)
  /-- R160. -/
  | writeLogKinds (value : BitVec 32)
  /-- R163. -/
  | writeLogWatermark (value : BitVec 32)
  /-- R181. -/
  | writeEventEnable (value : BitVec 32)
  /-- R3. -/
  | recordReadRegion (index : Byte)
  /-- R2. -/
  | recordWriteRegion (index : Byte) (fields : RegionFields)
  /-- R18. -/
  | recordReadGroup (index : Byte)
  /-- R17. -/
  | recordWriteGroup (index : Byte) (fields : GroupFields)
  /-- R155. -/
  | recordReadWatch (index : Byte)
  /-- R155. -/
  | recordWriteWatch (index : Byte) (fields : WatchFields)
  /-- R62. The argument byte is not used. -/
  | timerStart (arg : Byte)
  /-- R63. The argument byte is not used. -/
  | timerStop (arg : Byte)
  /-- R64. The argument byte is not used. -/
  | timerRestart (arg : Byte)
  /-- R74. -/
  | publish (mask : Byte)
  /-- R38. -/
  | discard (mask : Byte)
  /-- R11. -/
  | regionEnable (index : Byte)
  /-- R12. -/
  | regionRetire (index : Byte)
  /-- R125. The argument byte is not used. -/
  | holdSet (arg : Byte)
  /-- R130. The argument byte is not used. -/
  | holdRelease (arg : Byte)
  /-- R166. The argument byte is not used. -/
  | logClear (arg : Byte)
  /-- R182. -/
  | eventAck (mask : BitVec 16)
  /-- R184. The argument byte is not used. -/
  | countersClear (arg : Byte)
  /-- R147. The argument byte is not used. -/
  | datapathReset (arg : Byte)
  /-- R149. The last step of the quiesce. -/
  | quiesceEnd
  /-- R164. -/
  | logPop
  /-- R165. -/
  | logPeek
  /-- R178. -/
  | probe (addr : Addr)
  /-- R179. -/
  | status
  /-- R169. CS_N falls. -/
  | csNFall
  /-- R169. Eight SCLK periods carrying the byte `mosi` on MOSI. -/
  | sclkByte (mosi : Byte)
deriving DecidableEq, Repr

end Sys2Proof
end

