-- ==== Sys2Proof/Decode.lean ====
section
/-! DEFINITION. The commands that spec/opcode_table.json spells as words: none. The table gives no row of
the SL-416 any bits; what the part does decode, the bytes of a management frame, is in
Machine/Frames.lean. -/

namespace Sys2Proof

/-- The command a word of `nbits` bits spells. No row of the table has bits (log 16). -/
def decodeTableWord (_nbits _w : Nat) : Option Instr := none

end Sys2Proof
end

