-- ==== Sys2Proof/Config.lean ====
section
/-! DEFINITION. What the spec leaves open. Both constants are without a body: no proof can see what
they are, so a claim that holds for the model holds whatever they are. -/

namespace Sys2Proof.Config

/-- Free value. Where the spec lets several things be taken in either order inside one tick, one SYNC
edge, one PUBLISH or one release (R35, R71, R123, R159), the n-th choice made since the start is
`pick n`. UNVERIFIED which order the part takes (log 2). -/
opaque pick : Nat → Nat

/-- Free value. What bit 2 of HOLD_STATE reads while the hold unit is not HELD and the cause it keeps
is SOFTWARE (R120 calls the cause meaningful only while HELD; R131 keeps it) (log 9). -/
opaque staleCauseShown : Bool

end Sys2Proof.Config
end

