-- ==== Sys2Proof/Machine/State.lean ====
section
/-! DEFINITION. The state of the SL-416 as plain data, block by block (Table 0-2), and its value right
after hardware reset. -/

namespace Sys2Proof.Machine

/-! ### Regions (chapter 1) -/

/-- The view of a region's reads (R104). -/
inductive View where
  | committed
  | staged
deriving DecidableEq, Repr

/-- What becomes of a staged write that fails to allocate (R27). -/
inductive FullPolicy where
  | stall
  | reject
deriving DecidableEq, Repr

/-- The state of a region (Table 1-3). -/
inductive RegionState where
  | off
  | staging
  | retireWait
  | retireDrain
deriving DecidableEq, Repr

/-- A region record (Table 1-1). -/
structure Region where
  base : Addr
  sizeCode : Nat
  group : GroupId
  view : View
  policy : FullPolicy
  state : RegionState
deriving DecidableEq, Repr

/-- A region record after hardware reset (R1). -/
def Region.reset : Region :=
  { base := 0, sizeCode := 8, group := 0, view := .committed, policy := .stall, state := .off }

/-! ### Groups (chapters 1, 4, 5) -/

/-- Which timebase events reach a group (Table 1-4, Table 4-1). -/
inductive Source where
  | none
  | limit
  | zero
  | peak
  | markUp
  | markDown
  | markAny
  | sync
deriving DecidableEq, Repr

/-- A group's fate under a hold (section 7.1). -/
inductive HoldPolicy where
  | freeze
  | discard
deriving DecidableEq, Repr

/-- Why a seal request is made (section 4.1). -/
inductive SealCause where
  | trigger
  | manual
  | pressure
  | retire
deriving DecidableEq, Repr

/-- The states of an occupied sealed slot (section 5.1); NONE is the absence of a slot. -/
inductive SlotPhase where
  | fenced
  | ready
  | draining
deriving DecidableEq, Repr

/-- The fields of an occupied sealed slot (R80). -/
structure SealedSlot where
  phase : SlotPhase
  gen : BitVec 16
  entries : Nat
  fence : Nat
  written : Nat
  failed : Nat
  elapsed : Nat
deriving DecidableEq, Repr

/-- A group record and its group status (Table 1-4, R19). -/
structure Group where
  source : Source
  divider : Nat
  quota : Nat
  holdPolicy : HoldPolicy
  pressureSeal : Bool
  openGen : BitVec 16
  dividerCount : Nat
  pendingRetire : Bool
  slot : Option SealedSlot
deriving DecidableEq, Repr

/-- A group after hardware reset (R16, R19). -/
def Group.reset : Group :=
  { source := .none, divider := 1, quota := 64, holdPolicy := .freeze, pressureSeal := false,
    openGen := 0, dividerCount := 0, pendingRetire := false, slot := none }

/-! ### Staging pool (chapter 2) -/

/-- Whether an entry belongs to its group's open or sealed generation (Table 2-1). -/
inductive Role where
  | opened
  | sealed
deriving DecidableEq, Repr

/-- A pool entry in use (Table 2-1). Lanes of `data` outside `mask` carry no meaning and are kept 0
(log 11). -/
structure Entry where
  addr : Addr
  data : Lanes
  mask : LaneMask
  group : GroupId
  role : Role
  arrival : Nat
  issued : Bool
deriving DecidableEq, Repr

/-- Why a write waits in the stall slot (R31). -/
inductive StallCause where
  | noEntry
  | retireDrain
deriving DecidableEq, Repr

/-- The write held in an occupied stall slot (R31). -/
structure StalledWrite where
  tag : UTag
  addr : Addr
  size : Size
  data : Lanes
  region : RegionId
  cause : StallCause
  elapsed : Nat
deriving DecidableEq, Repr

/-! ### Request classifier, read tracker, D-port, drain engine (chapters 5, 6, 8) -/

/-- Status of an upstream response (R138). -/
inductive RespStatus where
  | ok
  | errMem
  | errStage
  | errProto
deriving DecidableEq, Repr

/-- An upstream response (R138). `data` is there for a READ alone. `holdsTag` is clear for the
ERR_PROTO of a tag clash alone, whose delivery leaves the earlier request's tag in flight (R135, log 10). -/
structure Response where
  tag : UTag
  status : RespStatus
  data : Option Lanes
  holdsTag : Bool
deriving DecidableEq, Repr

/-- A request in the forward queue (R140). `mark` is the fence mark of a pass-through request (R141). -/
structure FwdReq where
  tag : UTag
  kind : ReqKind
  addr : Addr
  size : Size
  data : Lanes
  mark : Option GroupId
deriving DecidableEq, Repr

/-- What the classifier keeps of a request outstanding at the D-port (R141). -/
structure OutReq where
  kind : ReqKind
  addr : Addr
  size : Size
  mark : Option GroupId
deriving DecidableEq, Repr

/-- A read tracker record (R107). -/
structure ReadRecord where
  addr : Addr
  lanes : LaneMask
  snapMask : LaneMask
  snapData : Lanes
  mark : Option GroupId
deriving DecidableEq, Repr

/-- A downstream request (R143). -/
structure DRequest where
  tag : DTag
  kind : ReqKind
  addr : Addr
  mask : LaneMask
  data : Lanes
deriving DecidableEq, Repr

/-- The arbiter's last-grant indicator (R144). -/
inductive Grant where
  | forward
  | drain
deriving DecidableEq, Repr

/-- What a drain tag is bound to (R91). -/
structure DrainBinding where
  group : GroupId
  arrival : Nat
deriving DecidableEq, Repr

/-! ### Period timebase (chapter 3) -/

/-- TIMER_MODE (R50). -/
inductive TimerMode where
  | up
  | updown
  | oneshot
deriving DecidableEq, Repr

/-- SYNC_MODE (R61). -/
inductive SyncMode where
  | ignore
  | event
  | restart
deriving DecidableEq, Repr

/-- Direction of the count. -/
inductive Dir where
  | up
  | down
deriving DecidableEq, Repr

/-- A timebase event (section 3.4, R61). -/
inductive TbEvent where
  | limit
  | zero
  | peak
  | markUp
  | markDown
  | sync
deriving DecidableEq, Repr

/-- A timestamp (R58, R59). -/
structure Stamp where
  period : BitVec 32
  count : Nat
  dir : Dir
deriving DecidableEq, Repr

/-- The state of the timebase (Table 3-1). `interval` is the divisor that governs the tick interval in
progress (R47). -/
structure Timebase where
  mode : TimerMode
  prescale : Nat
  interval : Nat
  limitShadow : Nat
  markShadow : Nat
  syncMode : SyncMode
  running : Bool
  count : Nat
  dir : Dir
  limit : Nat
  mark : Nat
  period : BitVec 32
deriving DecidableEq, Repr

/-- The timebase after hardware reset (R49, R47). -/
def Timebase.reset : Timebase :=
  { mode := .up, prescale := 1, interval := 1, limitShadow := 65535, markShadow := 65535,
    syncMode := .ignore, running := false, count := 0, dir := .up, limit := 65535, mark := 65535,
    period := 0 }

/-! ### Hold unit (chapter 7) -/

/-- The hold state (R120). -/
inductive HoldState where
  | clear
  | filtering
  | held
deriving DecidableEq, Repr

/-- The cause of a hold (R120). -/
inductive HoldCause where
  | line
  | software
deriving DecidableEq, Repr

/-- The state of the hold unit (R120); HOLD_FILTERED is among the counters. -/
structure Hold where
  state : HoldState
  counter : Nat
  cause : HoldCause
  suppressed : Nat
  filter : Nat
deriving DecidableEq, Repr

/-- The hold unit after hardware reset (R120). -/
def Hold.reset : Hold :=
  { state := .clear, counter := 0, cause := .line, suppressed := 0, filter := 8 }

/-! ### Watch unit and timestamp log (chapter 9) -/

/-- Which kinds of access a watch selects (Table 9-1). -/
inductive WatchKinds where
  | read
  | write
  | both
deriving DecidableEq, Repr

/-- A watch record (Table 9-1). -/
structure Watch where
  low : Addr
  high : Addr
  kinds : WatchKinds
  decimation : Nat
  enabled : Bool
  counter : Nat
deriving DecidableEq, Repr

/-- A watch record after hardware reset (R154). -/
def Watch.reset : Watch :=
  { low := 0, high := 0, kinds := .both, decimation := 1, enabled := false, counter := 0 }

/-- The path the classifier gives a request (Table 8-2, Table 9-2). -/
inductive Path where
  | staged
  | pass
  | stalled
  | refused
  | localRead
  | forwarded
deriving DecidableEq, Repr

/-- The contents of a log record by kind (Table 9-3). -/
inductive LogBody where
  | access (addr : Addr) (tag : UTag) (kind : ReqKind) (size : Size) (path : Path)
  | sealed (gen : BitVec 16) (entries : Nat) (cause : SealCause) (fence : Nat)
  | drainDone (gen : BitVec 16) (written failed : Nat) (abandoned : Bool) (elapsed : Nat)
  | overrun (gen : BitVec 16) (phase : SlotPhase)
  | drainFault (addr : Addr) (gen : BitVec 16)
  | holdOn (discarded : Nat) (cause : HoldCause)
  | holdOff (suppressed : Nat)
deriving DecidableEq, Repr

/-- A log record (R167): index, timestamp, gap and contents. -/
structure LogRecord where
  index : Fin 4
  stamp : Stamp
  gap : Nat
  gapPresent : Bool
  body : LogBody
deriving DecidableEq, Repr

/-- The state of the timestamp log (R159). -/
structure Log where
  records : List LogRecord
  lost : Nat
  kinds : BitVec 7
  watermark : Nat
deriving DecidableEq, Repr

/-- The log after hardware reset (R159). -/
def Log.reset : Log :=
  { records := [], lost := 0, kinds := BitVec.allOnes 7, watermark := 16 }

/-! ### Event unit (chapter 10) -/

/-- The state of the event unit: 16 flags, 16 enables, 26 counters (R180, R181, R183). -/
structure Events where
  flags : BitVec 16
  enables : BitVec 16
  counters : Vector Nat 26
deriving DecidableEq, Repr

/-- The event unit after hardware reset (R180, R181, R183). -/
def Events.reset : Events :=
  { flags := 0, enables := 0, counters := Vector.replicate 26 0 }

/-! ### Management port (chapter 10) -/

/-- The frame receiver (section 10.1). -/
inductive RxState where
  | idle
  | request
  | pad
  | reply
  | spent
  | blocked
deriving DecidableEq, Repr

/-- The management port: the receiver, the request bytes received in this frame, the reply buffer, how
much of it has been shifted out, and the byte driven on MISO in the byte time last clocked (R169, R170). -/
structure Port where
  rx : RxState
  got : List Byte
  reply : List Byte
  sent : Nat
  miso : Option Byte
deriving DecidableEq, Repr

/-- The port after hardware reset with CS_N high (R171). -/
def Port.reset : Port :=
  { rx := .idle, got := [], reply := [], sent := 0, miso := none }

/-! ### The whole part -/

/-- Everything the spec gives the SL-416. `pending` (the queue of commands) and `draws` (how many choices
have been drawn from `Config.pick`) are the model's own. -/
structure State where
  inReset : Bool
  hldLow : Bool
  csLow : Bool
  quiescing : Bool
  regions : Vector Region 8
  groups : Vector Group 4
  pool : List Entry
  stallLimit : Nat
  stall : Option StalledWrite
  inFlight : Vector Bool 16
  places : Nat
  responses : List Response
  forwardQueue : List FwdReq
  outstanding : Vector (Option OutReq) 16
  tracker : Vector (Option ReadRecord) 16
  channel : Option DRequest
  lastGrant : Grant
  ready : List GroupId
  nextIssue : Nat
  drainTags : Vector (Option DrainBinding) 4
  timebase : Timebase
  hold : Hold
  watches : Vector Watch 4
  log : Log
  events : Events
  port : Port
  pending : List Instr
  draws : Nat
deriving DecidableEq, Repr

/-- The part right after hardware reset, RST_N just deasserted with HLD_N deasserted and CS_N high
(R1, R16, R19, R21, R31, R34, R49, R120, R144, R151, R154, R159, R171, R180, R181, R183). -/
def State.reset : State :=
  { inReset := false, hldLow := false, csLow := false, quiescing := false,
    regions := Vector.replicate 8 Region.reset,
    groups := Vector.replicate 4 Group.reset,
    pool := [], stallLimit := 4096, stall := none,
    inFlight := Vector.replicate 16 false, places := 0, responses := [],
    forwardQueue := [], outstanding := Vector.replicate 16 none,
    tracker := Vector.replicate 16 none, channel := none, lastGrant := .drain,
    ready := [], nextIssue := 0, drainTags := Vector.replicate 4 none,
    timebase := Timebase.reset, hold := Hold.reset,
    watches := Vector.replicate 4 Watch.reset,
    log := Log.reset, events := Events.reset, port := Port.reset,
    pending := [], draws := 0 }

/-- Why the machine could stop with a fault. Nothing in the spec stops the SL-416: what it calls errors
are responses, replies, flags and counters. So there is no fault, and no constructor. -/
inductive Fault where
deriving DecidableEq, Repr

/-- Why a command could have no meaning. -/
inductive Refusal where
  /-- Raised by an arm of `exec` whose command is not modelled yet. Safe: the machine stops. No arm
  raises it. -/
  | notModelled (mnemonic : String)
deriving DecidableEq, Repr

end Sys2Proof.Machine
end

