-- ==== Sys2Proof/Machine/Operands.lean ====
section
/-! DEFINITION. Operand forms: lanes of a request, byte order of multi-byte fields, and the encodings of
Tables 10-3 to 10-11 in both directions. -/

namespace Sys2Proof.Machine

/-! ### Sizes and lanes (R24) -/

/-- Number of bytes of an access. -/
def Size.bytes : Size → Nat
  | .b1 => 1
  | .b2 => 2
  | .b4 => 4
  | .b8 => 8

/-- The size code 0..3 of an access (Table 8-1). -/
def Size.code : Size → BitVec 2
  | .b1 => 0
  | .b2 => 1
  | .b4 => 2
  | .b8 => 3

/-- The address is a multiple of the size (R136). -/
def aligned (a : Addr) (z : Size) : Bool := a.toNat % Size.bytes z == 0

/-- The doubleword address: the three low-order bits cleared (R24). -/
def doubleword (a : Addr) : Addr := a &&& ~~~7#32

/-- The lanes of a request: the address modulo 8 and the following ones, size in all (R24). -/
def laneMask (a : Addr) (z : Size) : LaneMask :=
  BitVec.ofNat 8 ((2 ^ Size.bytes z - 1) * 2 ^ (a.toNat % 8))

/-- Lane k of a set of lanes. -/
def hasLane (m : LaneMask) (k : Fin 8) : Bool := m.getLsbD k

/-- The lanes of `d` inside `m`, the others 0. -/
def maskLanes (m : LaneMask) (d : Lanes) : Lanes :=
  Vector.ofFn fun k => if hasLane m k then d[k] else 0

/-- `new` in the lanes of `m`, `old` in the others (R25, R109). -/
def mergeLanes (m : LaneMask) (new old : Lanes) : Lanes :=
  Vector.ofFn fun k => if hasLane m k then new[k] else old[k]

/-! ### Byte order (00_scope.md, R169: least significant byte first) -/

/-- Two bytes, least significant first. -/
def bytes16 (v : BitVec 16) : List Byte := [v.extractLsb' 0 8, v.extractLsb' 8 8]

/-- Four bytes, least significant first. -/
def bytes32 (v : BitVec 32) : List Byte :=
  [v.extractLsb' 0 8, v.extractLsb' 8 8, v.extractLsb' 16 8, v.extractLsb' 24 8]

/-- Two bytes read back. -/
def word16 (b0 b1 : Byte) : BitVec 16 := b1 ++ b0

/-- Four bytes read back. -/
def word32 (b0 b1 b2 b3 : Byte) : BitVec 32 := b3 ++ b2 ++ b1 ++ b0

/-- The low byte of a number. -/
def byteOf (n : Nat) : Byte := BitVec.ofNat 8 n

/-- A Boolean as a byte. -/
def boolByte (b : Bool) : Byte := if b then 1 else 0

/-- A Boolean as a bit. -/
def boolBit (b : Bool) : BitVec 1 := if b then 1 else 0

/-! ### Encodings that software writes (Tables 10-3 and 10-6); `none` where a value names nothing -/

/-- TIMER_MODE (Table 10-3). -/
def decodeTimerMode (v : Nat) : Option TimerMode :=
  match v with
  | 0 => some .up
  | 1 => some .updown
  | 2 => some .oneshot
  | _ => none

/-- SYNC_MODE (Table 10-3). -/
def decodeSyncMode (v : Nat) : Option SyncMode :=
  match v with
  | 0 => some .ignore
  | 1 => some .event
  | 2 => some .restart
  | _ => none

/-- View of a region (Table 10-6). -/
def decodeView (v : Nat) : Option View :=
  match v with
  | 0 => some .committed
  | 1 => some .staged
  | _ => none

/-- Full policy of a region (Table 10-6). -/
def decodePolicy (v : Nat) : Option FullPolicy :=
  match v with
  | 0 => some .stall
  | 1 => some .reject
  | _ => none

/-- Group of a region, 0..3 (Table 10-6). -/
def decodeGroupId (v : Nat) : Option GroupId := if h : v < 4 then some ⟨v, h⟩ else none

/-- Source of a group (Table 10-6). -/
def decodeSource (v : Nat) : Option Source :=
  match v with
  | 0 => some .none
  | 1 => some .limit
  | 2 => some .zero
  | 3 => some .peak
  | 4 => some .markUp
  | 5 => some .markDown
  | 6 => some .markAny
  | 7 => some .sync
  | _ => none

/-- Hold policy of a group (Table 10-6). -/
def decodeHoldPolicy (v : Nat) : Option HoldPolicy :=
  match v with
  | 0 => some .freeze
  | 1 => some .discard
  | _ => none

/-- Kinds of a watch (Table 10-6). -/
def decodeWatchKinds (v : Nat) : Option WatchKinds :=
  match v with
  | 0 => some .read
  | 1 => some .write
  | 2 => some .both
  | _ => none

/-! ### Encodings that software reads -/

def TimerMode.code : TimerMode → Nat
  | .up => 0
  | .updown => 1
  | .oneshot => 2

def SyncMode.code : SyncMode → Nat
  | .ignore => 0
  | .event => 1
  | .restart => 2

def View.code : View → Nat
  | .committed => 0
  | .staged => 1

def FullPolicy.code : FullPolicy → Nat
  | .stall => 0
  | .reject => 1

def RegionState.code : RegionState → Nat
  | .off => 0
  | .staging => 1
  | .retireWait => 2
  | .retireDrain => 3

def Source.code : Source → Nat
  | .none => 0
  | .limit => 1
  | .zero => 2
  | .peak => 3
  | .markUp => 4
  | .markDown => 5
  | .markAny => 6
  | .sync => 7

def HoldPolicy.code : HoldPolicy → Nat
  | .freeze => 0
  | .discard => 1

def WatchKinds.code : WatchKinds → Nat
  | .read => 0
  | .write => 1
  | .both => 2

/-- Direction as one bit: 1 is DOWN (Tables 10-3 and 10-10). -/
def Dir.bit : Dir → BitVec 1
  | .up => 0
  | .down => 1

/-- Hold state (Tables 10-3 and 10-9). -/
def HoldState.code : HoldState → BitVec 2
  | .clear => 0
  | .filtering => 1
  | .held => 2

/-- Cause of a hold: 1 is SOFTWARE. -/
def HoldCause.bit : HoldCause → BitVec 1
  | .line => 0
  | .software => 1

/-- State of the stall slot: 0 EMPTY, 1 NO_ENTRY, 2 RETIRE_DRAIN (Tables 10-3 and 10-9). -/
def stallCode : Option StalledWrite → BitVec 2
  | none => 0
  | some w => match w.cause with
    | .noEntry => 1
    | .retireDrain => 2

/-- Phase of a sealed slot: 1 FENCED, 2 READY, 3 DRAINING (Tables 10-6 and 10-11). -/
def SlotPhase.code : SlotPhase → BitVec 2
  | .fenced => 1
  | .ready => 2
  | .draining => 3

/-- State of a sealed slot, 0 for NONE (Table 10-6). -/
def slotCode : Option SealedSlot → BitVec 2
  | none => 0
  | some sl => SlotPhase.code sl.phase

/-- Cause of a seal (Table 10-11). -/
def SealCause.code : SealCause → BitVec 3
  | .trigger => 0
  | .manual => 1
  | .pressure => 2
  | .retire => 3

/-- Path of a request (Table 10-11). -/
def Path.code : Path → BitVec 3
  | .staged => 0
  | .pass => 1
  | .stalled => 2
  | .refused => 3
  | .localRead => 4
  | .forwarded => 5

/-- Kind of a request as one bit: 1 is WRITE (Table 10-11). -/
def ReqKind.bit : ReqKind → BitVec 1
  | .read => 0
  | .write => 1

/-! ### The log record layout (Tables 10-10 and 10-11) -/

/-- Kind code of a log record (Table 10-10). -/
def LogBody.kind : LogBody → Nat
  | .access .. => 1
  | .sealed .. => 2
  | .drainDone .. => 3
  | .overrun .. => 4
  | .drainFault .. => 5
  | .holdOn .. => 6
  | .holdOff .. => 7

/-- Word A of a log record (Table 10-11). -/
def LogBody.wordA : LogBody → BitVec 32
  | .access addr _ _ _ _ => addr
  | .sealed gen entries cause _ =>
    0#5 ++ SealCause.code cause ++ 0#1 ++ BitVec.ofNat 7 entries ++ gen
  | .drainDone gen written failed abandoned _ =>
    boolBit abandoned ++ BitVec.ofNat 7 failed ++ 0#1 ++ BitVec.ofNat 7 written ++ gen
  | .overrun gen phase => 0#14 ++ SlotPhase.code phase ++ gen
  | .drainFault addr _ => addr
  | .holdOn discarded cause => 0#23 ++ HoldCause.bit cause ++ BitVec.ofNat 8 discarded
  | .holdOff suppressed => 0#16 ++ BitVec.ofNat 16 suppressed

/-- Half B of a log record (Table 10-11). -/
def LogBody.halfB : LogBody → BitVec 16
  | .access _ tag kind size path =>
    0#6 ++ Path.code path ++ Size.code size ++ ReqKind.bit kind ++ BitVec.ofNat 4 tag
  | .sealed _ _ _ fence => BitVec.ofNat 16 fence
  | .drainDone _ _ _ _ elapsed => BitVec.ofNat 16 elapsed
  | .overrun .. => 0
  | .drainFault _ gen => gen
  | .holdOn .. => 0
  | .holdOff .. => 0

/-- The 16 bytes of a log record (Table 10-10). -/
def LogRecord.bytes (r : LogRecord) : List Byte :=
  [byteOf (LogBody.kind r.body),
    Dir.bit r.stamp.dir ++ boolBit r.gapPresent ++ 0#3 ++ BitVec.ofNat 3 r.index] ++
  bytes16 (BitVec.ofNat 16 r.stamp.count) ++ bytes32 r.stamp.period ++
  bytes32 (LogBody.wordA r.body) ++ bytes16 (LogBody.halfB r.body) ++
  bytes16 (BitVec.ofNat 16 r.gap)

end Sys2Proof.Machine
end

