-- ==== Sys2Proof/Machine/Flags.lean ====
section
/-! DEFINITION. The event unit: the positions of the 16 flags (Table 10-4), the numbers of the 26 counters
(Table 10-3), setting, clearing and counting, and the two output lines. -/

namespace Sys2Proof.Machine

/-- The 16 event flags (Table 10-2a). -/
inductive Flag where
  | done (g : GroupId)
  | overrun (g : GroupId)
  | stallTimeout
  | refused
  | drainFault
  | holdOn
  | logWatermark
  | logLoss
  | protocol
  | quiesced
deriving DecidableEq, Repr

/-- The bit of a flag in EVENT_FLAGS (Table 10-4). -/
def Flag.pos : Flag → Nat
  | .done g => g
  | .overrun g => 4 + g
  | .stallTimeout => 8
  | .refused => 9
  | .drainFault => 10
  | .holdOn => 11
  | .logWatermark => 12
  | .logLoss => 13
  | .protocol => 14
  | .quiesced => 15

/-- The 26 counters (R183). -/
inductive Counter where
  | seals (g : GroupId)
  | overruns (g : GroupId)
  | suppressed (g : GroupId)
  | discarded (g : GroupId)
  | drainFaults (g : GroupId)
  | stallTimeouts
  | refusedWrites
  | logLostTotal
  | protocolErrors
  | strayResponses
  | holdFiltered
deriving DecidableEq, Repr

/-- The place of a counter: its register number less 0x20 (Table 10-3). -/
def Counter.index : Counter → Fin 26
  | .seals g => ⟨g, by omega⟩
  | .overruns g => ⟨4 + g, by omega⟩
  | .suppressed g => ⟨8 + g, by omega⟩
  | .discarded g => ⟨12 + g, by omega⟩
  | .drainFaults g => ⟨16 + g, by omega⟩
  | .stallTimeouts => 20
  | .refusedWrites => 21
  | .logLostTotal => 22
  | .protocolErrors => 23
  | .strayResponses => 24
  | .holdFiltered => 25

/-- Where every 16-bit counter stops (00_scope.md, "Counters"). -/
def counterMax : Nat := 65535

/-- A saturating sum of a 16-bit counter. -/
def satAdd (a n : Nat) : Nat := min counterMax (a + n)

/-- A flag's value. -/
def State.flagSet (s : State) (f : Flag) : Bool := s.events.flags.getLsbD f.pos

/-- A counter's value. -/
def State.counter (s : State) (c : Counter) : Nat := s.events.counters[c.index]

/-- Set a flag, whether or not it is set already and whatever its enable (R180). -/
def State.raise (s : State) (f : Flag) : State :=
  { s with events := { s.events with flags := s.events.flags ||| BitVec.twoPow 16 f.pos } }

/-- Raise a counter by n, holding at 65535 (R183). -/
def State.bump (s : State) (c : Counter) (n : Nat) : State :=
  { s with events := { s.events with
      counters := s.events.counters.set c.index (satAdd (s.counter c) n) } }

/-- Clear the flags named in a mask (R182). -/
def State.clearFlags (s : State) (mask : BitVec 16) : State :=
  { s with events := { s.events with flags := s.events.flags &&& ~~~mask } }

/-- INT_N is driven low: RST_N is deasserted and some flag is 1 with its enable 1 (R181). -/
def State.intAsserted (s : State) : Bool :=
  !s.inReset && s.events.flags &&& s.events.enables != 0

/-- HOLD_ACT is high: the hold state is HELD and RST_N is deasserted (R127). -/
def State.holdAct (s : State) : Bool := !s.inReset && s.hold.state == .held

end Sys2Proof.Machine
end

