-- ==== Sys2Proof/Machine/Ops.lean ====
section
/-! DEFINITION. The operations that the meanings share: the named updates of State, the log, the response
queue, the region lookup, the staging pool, the stall slot, the seal and the completion of a generation, and the
delivery of timebase events. -/

namespace Sys2Proof.Machine

/-! ### Named updates -/

/-- The four groups in ascending order. -/
def allGroups : List GroupId := [0, 1, 2, 3]

/-- The eight regions in ascending order. -/
def allRegions : List RegionId := [0, 1, 2, 3, 4, 5, 6, 7]

/-- The sixteen upstream tags in ascending order. -/
def allTags : List UTag := [0, 1, 2, 3, 4, 5, 6, 7, 8, 9, 10, 11, 12, 13, 14, 15]

/-- Change one group. -/
def State.modGroup (s : State) (g : GroupId) (f : Group → Group) : State :=
  { s with groups := s.groups.set g (f s.groups[g]) }

/-- Change the sealed slot of a group, if it holds one. -/
def State.modSlot (s : State) (g : GroupId) (f : SealedSlot → SealedSlot) : State :=
  s.modGroup g fun r => { r with slot := r.slot.map f }

/-- Change one region. -/
def State.modRegion (s : State) (r : RegionId) (f : Region → Region) : State :=
  { s with regions := s.regions.set r (f s.regions[r]) }

/-- Change the state of every region of a group that is in state `old` (R13, R14). -/
def State.moveRegions (s : State) (g : GroupId) (old new : RegionState) : State :=
  { s with regions := Vector.ofFn fun r =>
      if s.regions[r].group = g ∧ s.regions[r].state = old then
        { s.regions[r] with state := new }
      else s.regions[r] }

/-- The current timestamp (R59). -/
def State.now (s : State) : Stamp :=
  { period := s.timebase.period, count := s.timebase.count, dir := s.timebase.dir }

/-- The hold unit is HELD. -/
def State.held (s : State) : Bool := s.hold.state == .held

/-! ### Free order (log 2) -/

/-- Put `a` into `l` at the place the n-th free choice names. -/
def insertFree {α : Type} (n : Nat) (a : α) (l : List α) : List α :=
  l.insertIdx (Config.pick n % (l.length + 1)) a

/-- `l` in an order the spec does not fix: any order, one choice for each element beyond the first. A list of
at most one element asks for no choice. -/
def arrange {α : Type} : Nat → List α → List α
  | _, [] => []
  | _, [a] => [a]
  | n, a :: b :: l => insertFree n a (arrange (n + 1) (b :: l))

/-- Count the choices that arranging n things draws. -/
def State.drew (s : State) (n : Nat) : State := { s with draws := s.draws + (n - 1) }

/-! ### The timestamp log (R160 to R162) -/

/-- The kind of the record is enabled in LOG_KINDS: bit k-1 enables kind code k (R160, Table 10-3). -/
def Log.takes (l : Log) (b : LogBody) : Bool := l.kinds.getLsbD (b.kind - 1)

/-- A record reaches a log that has room and takes its kind (R162 steps 1 and 2). -/
def Log.enter (l : Log) (index : Fin 4) (ts : Stamp) (b : LogBody) : Log :=
  { l with
    records := l.records ++ [{ index := index, stamp := ts, gap := l.lost, gapPresent := 0 < l.lost,
                               body := b }]
    lost := 0 }

/-- A record is handed to the log (R160, R161, R162). -/
def State.logRecord (s : State) (index : Fin 4) (ts : Stamp) (b : LogBody) : State :=
  if !s.log.takes b then s
  else if s.log.records.length < 32 then
    let t := { s with log := s.log.enter index ts b }
    if t.log.records.length = t.log.watermark then t.raise .logWatermark else t
  else
    (({ s with log := { s.log with lost := satAdd s.log.lost 1 } }).bump .logLostTotal 1).raise .logLoss

/-! ### Responses (R138, R139) -/

/-- A response enters the tail of the response queue at the moment it is built (R139). -/
def State.respond (s : State) (tag : UTag) (status : RespStatus) (data : Option Lanes) : State :=
  { s with responses := s.responses ++ [{ tag := tag, status := status, data := data, holdsTag := true }] }

/-- The data of a failed response: 0 in every lane for a READ, none for a WRITE (R138). -/
def failData : ReqKind → Option Lanes
  | .read => some Lanes.zero
  | .write => none

/-! ### The region table (R4, R11) -/

/-- The address lies in the region's window (R4). -/
def Region.contains (r : Region) (a : Addr) : Bool :=
  r.base.toNat ≤ a.toNat && a.toNat < r.base.toNat + 2 ^ r.sizeCode

/-- The region takes part in the lookup (R4). -/
def Region.active (r : Region) : Bool := r.state != .off

/-- Two windows share at least one byte address (R4). -/
def Region.overlaps (r q : Region) : Bool :=
  r.base.toNat < q.base.toNat + 2 ^ q.sizeCode && q.base.toNat < r.base.toNat + 2 ^ r.sizeCode

/-- The active region whose window contains the address (R4). -/
def State.lookup (s : State) (a : Addr) : Option RegionId :=
  allRegions.find? fun r => s.regions[r].active && s.regions[r].contains a

/-- The address lies in the window of an active region of the group (R86 condition 4). -/
def State.inGroupWindow (s : State) (g : GroupId) (a : Addr) : Bool :=
  allRegions.any fun r =>
    decide (s.regions[r].group = g) && s.regions[r].active && s.regions[r].contains a

/-! ### The staging pool (R22 to R26, R36, R37) -/

/-- The entry is one of the group with the role. -/
def Entry.isOf (e : Entry) (g : GroupId) (r : Role) : Bool := decide (e.group = g) && decide (e.role = r)

/-- The group's open entry count (R22). -/
def State.openCount (s : State) (g : GroupId) : Nat := s.pool.countP fun e => e.isOf g .opened

/-- POOL_USED (R23). -/
def State.poolUsed (s : State) : Nat := s.pool.length

/-- The entry of a group and role that holds a doubleword (R24). -/
def State.findEntry (s : State) (g : GroupId) (r : Role) (a : Addr) : Option Entry :=
  s.pool.find? fun e => e.isOf g r && decide (e.addr = a)

/-- A write merges into an entry (R25). -/
def Entry.merge (e : Entry) (m : LaneMask) (d : Lanes) : Entry :=
  { e with data := mergeLanes m d e.data, mask := e.mask ||| m }

/-- A staged write is offered to the pool: it merges, allocates or fails (R24, R25, R26). -/
def State.offer (s : State) (g : GroupId) (a : Addr) (z : Size) (d : Lanes) : Option State :=
  let dw := doubleword a
  let m := laneMask a z
  if (s.findEntry g .opened dw).isSome then
    let into := fun e : Entry => if e.isOf g .opened && decide (e.addr = dw) then e.merge m d else e
    some { s with pool := s.pool.map into }
  else if s.poolUsed < 64 ∧ s.openCount g < s.groups[g].quota then
    let e : Entry := { addr := dw, data := maskLanes m d, mask := m, group := g, role := .opened,
                       arrival := s.openCount g, issued := false }
    some { s with pool := s.pool ++ [e] }
  else none

/-- A failed allocation of the group makes a PRESSURE request (R29). -/
def State.wantsPressure (s : State) (g : GroupId) : Bool :=
  s.groups[g].pressureSeal && decide (0 < s.openCount g)

/-- Free the OPEN entries of a group and count them in DISCARDED(g) (R38, R40, R43). -/
def State.discardOpen (s : State) (g : GroupId) : State :=
  ({ s with pool := s.pool.filter fun e => !e.isOf g .opened }).bump (.discarded g) (s.openCount g)

/-! ### The stall slot (R10, R28, R33, R42) -/

/-- The write of the stall slot, as a pass-through request of the forward queue (R10, R140). -/
def StalledWrite.asForward (w : StalledWrite) : FwdReq :=
  { tag := w.tag, kind := .write, addr := w.addr, size := w.size, data := w.data, mark := none }

/-- The write in the stall slot is forwarded as pass-through and the slot empties (R10). -/
def State.forwardStalled (s : State) (w : StalledWrite) : State :=
  { s with stall := none, forwardQueue := s.forwardQueue ++ [w.asForward] }

/-- A refused staged write is answered ERR_STAGE, counted and flagged (R28, R40, R42, R128). -/
def State.refuseWrite (s : State) (tag : UTag) : State :=
  ((s.respond tag .errStage none).bump .refusedWrites 1).raise .refused

/-- The write in the stall slot, if any, is refused and the slot empties (R40 step 1, R42). -/
def State.refuseStalled (s : State) : State :=
  match s.stall with
  | none => s
  | some w => ({ s with stall := none }).refuseWrite w.tag

/-- One judgement of the stall slot by the current state of its region (R10, R33). The second component is
the group whose PRESSURE request the failed offer makes, if it makes one (R29). -/
def State.judge (s : State) : State × Option GroupId :=
  match s.stall with
  | none => (s, none)
  | some w =>
    let r := s.regions[w.region]
    match r.state with
    | .off => (s.forwardStalled w, none)
    | .retireDrain => ({ s with stall := some { w with cause := .retireDrain } }, none)
    | .staging | .retireWait =>
      match s.offer r.group w.addr w.size w.data with
      | some t => (({ t with stall := none }).respond w.tag .ok none, none)
      | none => (s, if s.wantsPressure r.group then some r.group else none)

/-! ### Fences and the ready queue (R86 to R90) -/

/-- The request with this upstream tag belongs to a fence set of the group taken now: it is in the forward
queue or outstanding, and its address lies in an active window of the group (R86). -/
def State.inFence (s : State) (g : GroupId) (t : UTag) : Bool :=
  (s.forwardQueue.any fun r => decide (r.tag = t) && s.inGroupWindow g r.addr) ||
  (s.outstanding[t].any fun o => s.inGroupWindow g o.addr)

/-- How many members the fence set has (R81 step 5). -/
def State.fenceSize (s : State) (g : GroupId) : Nat := allTags.countP fun t => s.inFence g t

/-- Mark the members with the group: a forwarded read in its read tracker record, a pass-through request in
the forward queue or in its outstanding record (R87, R108, R141). -/
def State.markFence (s : State) (g : GroupId) : State :=
  let queued := fun r : FwdReq =>
    if s.inFence g r.tag && s.tracker[r.tag].isNone then { r with mark := some g } else r
  let issued := fun t : UTag =>
    if s.inFence g t && s.tracker[t].isNone then
      s.outstanding[t].map fun o => { o with mark := some g }
    else s.outstanding[t]
  let reading := fun t : UTag =>
    if s.inFence g t then s.tracker[t].map fun r => { r with mark := some g } else s.tracker[t]
  { s with
    forwardQueue := s.forwardQueue.map queued
    outstanding := Vector.ofFn issued
    tracker := Vector.ofFn reading }

/-- The phase of a group's sealed slot, if it holds one. -/
def State.phase (s : State) (g : GroupId) : Option SlotPhase := s.groups[g].slot.map (·.phase)

/-- A READY head of the ready queue becomes DRAINING, unless the part is quiescing (R90, R92). -/
def State.startDrain (s : State) : State :=
  match s.ready with
  | [] => s
  | g :: _ =>
    if !s.quiescing && s.phase g == some .ready then
      { (s.modSlot g fun sl => { sl with phase := .draining }) with nextIssue := 0 }
    else s

/-- The slot becomes READY and its generation joins the tail of the ready queue (R88, R89). -/
def State.becomeReady (s : State) (g : GroupId) : State :=
  let t := s.modSlot g fun sl => { sl with phase := .ready }
  State.startDrain { t with ready := t.ready ++ [g] }

/-- A member of the group's fence set has been answered (R87, R88). -/
def State.lowerFence (s : State) (g : GroupId) : State :=
  match s.groups[g].slot with
  | none => s
  | some sl =>
    let t := s.modSlot g fun sl => { sl with fence := sl.fence - 1 }
    if sl.phase = .fenced ∧ sl.fence ≤ 1 then t.becomeReady g else t

/-- Lower the fence count of the group a mark names, if it names one (R87). -/
def State.lowerMark (s : State) : Option GroupId → State
  | none => s
  | some g => s.lowerFence g

/-! ### The seal (R72, R81) -/

/-- A seal request of the group would seal: not HELD, not quiescing, sealed slot NONE (R72). -/
def State.canSeal (s : State) (g : GroupId) : Bool :=
  !s.held && !s.quiescing && s.groups[g].slot.isNone

/-- Every OPEN entry of the group becomes SEALED (R36). -/
def State.retag (s : State) (g : GroupId) : State :=
  let f := fun e : Entry =>
    if e.isOf g .opened then { e with role := .sealed, issued := false } else e
  { s with pool := s.pool.map f }

/-- The sealed slot that a seal fills (R81 step 1). -/
def State.newSlot (s : State) (g : GroupId) : SealedSlot :=
  { phase := .fenced, gen := s.groups[g].openGen, entries := s.openCount g, fence := 0, written := 0, failed := 0,
    elapsed := 0 }

/-- The group's record after steps 1 and 3 of a seal (R81, R74, R77). -/
def Group.takeSeal (r : Group) (slot : SealedSlot) (cause : SealCause) : Group :=
  { r with
    slot := some slot
    openGen := r.openGen + 1
    dividerCount := if cause = .manual then 0 else r.dividerCount
    pendingRetire := if cause = .retire then false else r.pendingRetire }

/-- Steps 1 to 4 of a seal (R81, R36, R13). -/
def State.takeSeal (s : State) (g : GroupId) (cause : SealCause) : State :=
  ((s.modGroup g fun r => r.takeSeal (s.newSlot g) cause).retag g).moveRegions g .retireWait .retireDrain

/-- The fence set count of a seal of n entries: 0 with no entries (R81 step 5, R86). -/
def State.fenceCount (s : State) (g : GroupId) (n : Nat) : Nat := if 0 < n then s.fenceSize g else 0

/-- Step 5 of a seal of n entries: the members are marked and their number stands in the slot (R81, R87). -/
def State.takeFence (s : State) (g : GroupId) (n : Nat) : State :=
  let f := s.fenceCount g n
  (if 0 < n then s.markFence g else s).modSlot g fun sl => { sl with fence := f }

/-- Step 6 of a seal: counter and record (R84). -/
def State.reportSeal (s : State) (g : GroupId) (ts : Stamp) (b : LogBody) : State :=
  (s.bump (.seals g) 1).logRecord g ts b

/-- Steps 1 to 7 of a seal, but for the completion of an empty generation (R81). -/
def State.sealGroup (s : State) (g : GroupId) (cause : SealCause) (ts : Stamp) : State :=
  let n := s.openCount g
  let t := s.takeSeal g cause
  let f := t.fenceCount g n
  let u := (t.takeFence g n).reportSeal g ts (.sealed s.groups[g].openGen n cause f)
  if 0 < n ∧ f = 0 then u.becomeReady g else u

/-- The DRAIN_DONE record of a sealed generation and its DONE(g) event (R96 steps 1 and 2, R99). -/
def State.reportDone (s : State) (g : GroupId) (sl : SealedSlot) (abandoned : Bool) : State :=
  (s.logRecord g s.now (.drainDone sl.gen sl.written sl.failed abandoned sl.elapsed)).raise (.done g)

/-- The group leaves the ready queue and its sealed slot becomes NONE (R96 step 3). -/
def State.freeSlot (s : State) (g : GroupId) : State :=
  { (s.modGroup g fun r => { r with slot := none }) with ready := s.ready.filter (· ≠ g) }

/-- Steps 1 to 4 of a completion, but for the retry of step 4 (R96, R14). -/
def State.finish (s : State) (g : GroupId) : State :=
  match s.groups[g].slot with
  | none => s
  | some sl => ((s.reportDone g sl false).freeSlot g).moveRegions g .retireDrain .off

/-- A completion of the group now turns a region OFF: one of its regions is in RETIRE_DRAIN (R14). -/
def State.retiring (s : State) (g : GroupId) : Bool :=
  allRegions.any fun r => decide (s.regions[r].group = g) && s.regions[r].state == .retireDrain

/-- A PRESSURE request made by a failed offer: it seals or leaves no trace (R75). The seal's own retry (R81
step 8) meets an open count of 0 in the group of the stalled write, so it makes no further request. -/
def State.pressureRequest (s : State) (g : GroupId) : State :=
  if s.canSeal g then (s.sealGroup g .pressure s.now).judge.1 else s

/-- A retry of the stall slot with the PRESSURE request that its failure may make (R33). -/
def State.retry (s : State) : State :=
  match s.judge with
  | (t, none) => t
  | (t, some g) => t.pressureRequest g

/-- The completion of an empty generation at its seal: the pending retire seal, if `pending` takes one, and the
head of the ready queue. The regions it turned OFF meet the stall slot at the seal's own retry, which follows (R83,
R81 step 8, log 25). -/
def State.completeEmpty (s : State) (g : GroupId) (pending : State → State) : State :=
  (pending (s.finish g)).startDrain

/-- A seal that leaves no pending retire seal to take: with zero entries it completes at once (R81, R83). -/
def State.sealLast (s : State) (g : GroupId) (cause : SealCause) (ts : Stamp) : State :=
  let t := s.sealGroup g cause ts
  (if s.openCount g = 0 then t.completeEmpty g id else t).retry

/-- A pending retire seal offered at a DRAIN_DONE of an empty generation (R77, R83). The open generation is
empty then, and the RETIRE seal clears the flag, so no other follows it. -/
def State.offerPendingLast (s : State) (g : GroupId) : State :=
  if s.groups[g].pendingRetire && s.canSeal g then s.sealLast g .retire s.now else s

/-- A seal of the group, with all that follows it (R81, R83). -/
def State.sealFull (s : State) (g : GroupId) (cause : SealCause) (ts : Stamp) : State :=
  let t := s.sealGroup g cause ts
  (if s.openCount g = 0 then t.completeEmpty g fun u => u.offerPendingLast g else t).retry

/-- A pending retire seal offered at the DRAIN_DONE of a drained generation or at the hold's release (R77). -/
def State.offerPending (s : State) (g : GroupId) : State :=
  if s.groups[g].pendingRetire && s.canSeal g then s.sealFull g .retire s.now else s

/-- The completion of a drained generation (R96): where it turns a region OFF, the stall slot is retried, whichever
write it holds (R33 cause 4, log 25); then the pending retire seal is offered, and the next generation at the head of
the ready queue drains. -/
def State.complete (s : State) (g : GroupId) : State :=
  let t := s.finish g
  ((if s.retiring g then t.retry else t).offerPending g).startDrain

/-- A TRIGGER request taken while neither HELD nor quiescing: it seals or overruns (R72, R73, R85). -/
def State.triggerRequest (s : State) (g : GroupId) (ts : Stamp) : State :=
  match s.groups[g].slot with
  | none => s.sealFull g .trigger ts
  | some sl =>
    (((s.bump (.overruns g) 1).raise (.overrun g)).logRecord g ts (.overrun sl.gen sl.phase))

/-- A RETIRE request made by REGION_RETIRE (R76): it seals, waits as the pending retire seal, or, HELD or
quiescing, stays as it is (R72). -/
def State.retireRequest (s : State) (g : GroupId) : State :=
  if s.held || s.quiescing then s
  else match s.groups[g].slot with
    | none => s.sealFull g .retire s.now
    | some _ => s.modGroup g fun r => { r with pendingRetire := true }

/-! ### Delivery of timebase events (R68 to R71) -/

/-- The event is delivered to a group with this source (Table 4-1). -/
def Source.matches : Source → TbEvent → Bool
  | .none, _ => false
  | .limit, e => e == .limit
  | .zero, e => e == .zero
  | .peak, e => e == .peak
  | .markUp, e => e == .markUp
  | .markDown, e => e == .markDown
  | .markAny, e => e == .markUp || e == .markDown
  | .sync, e => e == .sync

/-- A group sequencer receives a delivered event (R69, R71). -/
def State.deliver (s : State) (g : GroupId) (ts : Stamp) : State :=
  if s.held || s.quiescing then
    let t := s.bump (.suppressed g) 1
    if s.held then { t with hold := { t.hold with suppressed := satAdd t.hold.suppressed 1 } } else t
  else if s.groups[g].dividerCount + 1 = s.groups[g].divider then
    (s.modGroup g fun r => { r with dividerCount := 0 }).triggerRequest g ts
  else s.modGroup g fun r => { r with dividerCount := r.dividerCount + 1 }

/-- Something that falls inside one tick or one SYNC edge: an event delivered to a group, the expiry of the
stalled write, the completion of the hold filter. -/
inductive Due where
  | deliver (g : GroupId) (e : TbEvent) (ts : Stamp)
  | stallExpiry
  | filterComplete
deriving DecidableEq, Repr

/-- The deliveries that a step's or an edge's events make, by the group records as they stand (R68). -/
def State.deliveries (s : State) (events : List TbEvent) (ts : Stamp) : List Due :=
  allGroups.flatMap fun g =>
    (events.filter fun e => s.groups[g].source.matches e).map fun e => Due.deliver g e ts

/-- The write in the stall slot expires (R35). -/
def State.expireStall (s : State) : State :=
  match s.stall with
  | none => s
  | some w =>
    ((({ s with stall := none }).respond w.tag .errStage none).bump .stallTimeouts 1).raise .stallTimeout

/-! ### Entry to HELD (R40, R126) -/

/-- The groups whose hold policy is DISCARD. -/
def State.discardGroups (s : State) : List GroupId :=
  allGroups.filter fun g => s.groups[g].holdPolicy = .discard

/-- Step 1 of R40: a stalled write of a DISCARD group is refused. -/
def State.refuseStalledOfDiscard (s : State) : State :=
  match s.stall with
  | none => s
  | some w =>
    if s.groups[s.regions[w.region].group].holdPolicy = .discard then s.refuseStalled else s

/-- The hold unit enters HELD (R126, with R40 as its step 3). -/
def State.enterHeld (s : State) (cause : HoldCause) : State :=
  let s1 := { s with hold := { s.hold with
    state := .held, cause := cause, counter := 0, suppressed := 0 } }
  let s2 := (s1.raise .holdOn).refuseStalledOfDiscard
  let s3 := s2.discardGroups.foldl State.discardOpen s2
  let freed := s2.poolUsed - s3.poolUsed
  let s4 := s3.retry
  s4.logRecord 0 s4.now (.holdOn freed cause)

/-- One thing that falls inside a tick or an edge comes about. -/
def State.applyDue (s : State) : Due → State
  | .deliver g _ ts => s.deliver g ts
  | .stallExpiry => s.expireStall
  | .filterComplete => if s.hold.state = .filtering then s.enterHeld .line else s

/-- All that falls inside a tick or an edge comes about: what `first` selects before the rest, otherwise in
a free order (log 1, log 2). -/
def State.applyAll (s : State) (first : Due → Bool) (l : List Due) : State :=
  let a := l.filter first
  let b := l.filter fun d => !first d
  let s1 := (arrange s.draws a).foldl State.applyDue (s.drew a.length)
  (arrange s1.draws b).foldl State.applyDue (s1.drew b.length)

end Sys2Proof.Machine
end

