-- ==== Sys2Proof/Machine/HoldLine.lean ====
section
/-! DEFINITION. The hold line and hardware reset: HLD_N_ASSERTED, HLD_N_DEASSERTED (chapter 7), HARDWARE_RESET
and RESET_END (R151, R124, R171), and the release of a hold (R131). -/

namespace Sys2Proof.Machine

/-- An assertion of the line as the hold unit sees it: it acts while CLEAR alone (R122, R124). -/
def State.lineAsserted (s : State) : State :=
  if s.hold.state = .clear then
    if s.hold.filter = 0 then s.enterHeld .line
    else { s with hold := { s.hold with state := .filtering, counter := 0 } }
  else s

/-- A deassertion of the line as the hold unit sees it: it ends a filter under way (R123). -/
def State.lineDeasserted (s : State) : State :=
  if s.hold.state = .filtering then
    ({ s with hold := { s.hold with state := .clear, counter := 0 } }).bump .holdFiltered 1
  else s

/-- HLD_N_ASSERTED (R122). While RST_N is asserted the hold unit does not look at the line (R124). -/
def execHldNAsserted (s : State) : Host.Outcome State Fault Refusal :=
  let t := { s with hldLow := true }
  if s.inReset then .next t else .next t.lineAsserted

/-- HLD_N_DEASSERTED (R123). While RST_N is asserted the hold unit does not look at the line (R124). -/
def execHldNDeasserted (s : State) : Host.Outcome State Fault Refusal :=
  let t := { s with hldLow := false }
  if s.inReset then .next t else .next t.lineDeasserted

/-- The groups whose pending retire seal a release offers (R131 step 3). -/
def State.pendingGroups (s : State) : List GroupId :=
  allGroups.filter fun g => s.groups[g].pendingRetire && s.canSeal g

/-- A taken release (R131, R77). The order among groups is free (log 2). -/
def State.release (s : State) : State :=
  let s1 := { s with hold := { s.hold with state := .clear } }
  let s2 := s1.logRecord 0 s1.now (.holdOff s1.hold.suppressed)
  let l := s2.pendingGroups
  (arrange s2.draws l).foldl State.offerPending (s2.drew l.length)

/-- The part while RST_N is asserted: every block at its hardware reset value, every request in flight gone. The
input lines keep their levels; the queue of commands and the free choices are not the part's (R151, log 8). -/
def State.underReset (s : State) : State :=
  { State.reset with
    inReset := true, hldLow := s.hldLow, csLow := s.csLow, pending := s.pending, draws := s.draws }

/-- HARDWARE_RESET (R1, R16, R19, R21, R22, R31, R49, R100, R108, R120, R135, R139, R151, R154, R159, R180, R181,
R183). -/
def execHardwareReset (s : State) : Host.Outcome State Fault Refusal := .next s.underReset

/-- RESET_END: RST_N is deasserted. The prescaler's interval begins again with divisor 1 (R47), HLD_N is looked at
(R124), and the frame receiver is IDLE or, with CS_N low, BLOCKED (R171). -/
def execResetEnd (s : State) : Host.Outcome State Fault Refusal :=
  if s.inReset then
    let t := { s with
      inReset := false
      timebase := { s.timebase with interval := 1 }
      port := { Port.reset with rx := if s.csLow then .blocked else .idle } }
    .next (if s.hldLow then t.lineAsserted else t)
  else .next s

end Sys2Proof.Machine
end

