-- ==== Sys2Proof/Machine/Registers.lean ====
section
/-! DEFINITION. Replies of the management port, the registers of Table 10-3 and the writes of the writable ones. -/

namespace Sys2Proof.Machine

/-- Management status codes (Table 10-1). -/
inductive Status where
  | ack
  | nakState
  | nakRange
  | nakOverlap
  | nakBusy
  | nakFrame
  | empty
deriving DecidableEq, Repr

/-- The byte a status code is sent as (section 10.5.2). -/
def Status.byte : Status → Byte
  | .ack => 0x01
  | .nakState => 0x02
  | .nakRange => 0x03
  | .nakOverlap => 0x04
  | .nakBusy => 0x05
  | .nakFrame => 0x06
  | .empty => 0x07

/-- What a taken frame leaves: the state and the reply (R172). -/
structure Taken where
  state : State
  status : Status
  payload : List Byte

/-- A refused frame: no payload, no state changed (R172). -/
def State.refuse (s : State) (st : Status) : Taken := { state := s, status := st, payload := [] }

/-- A taken frame with its payload. -/
def State.accept (s : State) (payload : List Byte) : Taken := { state := s, status := .ack, payload := payload }

/-! ### Reading (R173) -/

/-- HOLD_STATE: state, cause and line level (Table 10-3). While the unit is not HELD a kept cause of SOFTWARE has
no stated reading (log 9). -/
def State.holdStateReg (s : State) : BitVec 32 :=
  let cause := match s.hold.state, s.hold.cause with
    | _, .line => false
    | .held, .software => true
    | _, .software => Config.staleCauseShown
  0#28 ++ boolBit s.hldLow ++ boolBit cause ++ HoldState.code s.hold.state

/-- The value of a register by its number; `none` where the number names no register (Table 10-3). -/
def State.register (s : State) (n : Byte) : Option (BitVec 32) :=
  match n.toNat with
  | 0x00 => some (BitVec.ofNat 32 (TimerMode.code s.timebase.mode))
  | 0x01 => some (BitVec.ofNat 32 s.timebase.prescale)
  | 0x02 => some (BitVec.ofNat 32 s.timebase.limitShadow)
  | 0x03 => some (BitVec.ofNat 32 s.timebase.markShadow)
  | 0x04 => some (BitVec.ofNat 32 (SyncMode.code s.timebase.syncMode))
  | 0x05 => some (BitVec.ofNat 32 s.hold.filter)
  | 0x06 => some (BitVec.ofNat 32 s.stallLimit)
  | 0x07 => some (s.log.kinds.setWidth 32)
  | 0x08 => some (BitVec.ofNat 32 s.log.watermark)
  | 0x09 => some (s.events.enables.setWidth 32)
  | 0x10 => some (BitVec.ofNat 32 s.timebase.count)
  | 0x11 => some ((Dir.bit s.timebase.dir).setWidth 32)
  | 0x12 => some s.timebase.period
  | 0x13 => some ((boolBit s.timebase.running).setWidth 32)
  | 0x14 => some s.holdStateReg
  | 0x15 => some (BitVec.ofNat 32 s.poolUsed)
  | 0x16 => some ((stallCode s.stall).setWidth 32)
  | 0x17 => some (s.events.flags.setWidth 32)
  | 0x18 => some (BitVec.ofNat 32 s.log.records.length)
  | k =>
    if h : 0x20 ≤ k ∧ k < 0x3A then
      some (BitVec.ofNat 32 (s.events.counters[k - 0x20]'(by omega)))
    else none

/-- A REG_READ frame (R173). -/
def State.takeRegRead (s : State) (n : Byte) : Taken :=
  match s.register n with
  | some v => s.accept (bytes32 v)
  | none => s.refuse .nakRange

/-! ### Writing (R174): the value is judged whole, all 32 bits -/

/-- TIMER_MODE (R50). -/
def State.writeTimerMode (s : State) (v : BitVec 32) : Taken :=
  if s.timebase.running then s.refuse .nakState
  else match decodeTimerMode v.toNat with
    | none => s.refuse .nakRange
    | some m => State.accept { s with timebase := { s.timebase with mode := m } } []

/-- PRESCALE (R47): the interval in progress keeps its divisor. -/
def State.writePrescale (s : State) (v : BitVec 32) : Taken :=
  if v.toNat ∈ [1, 2, 4, 8, 16, 32, 64, 128, 256] then
    State.accept { s with timebase := { s.timebase with prescale := v.toNat } } []
  else s.refuse .nakRange

/-- What a write of PERIOD_LIMIT taken while STOPPED does beyond the shadow (R52). -/
def Timebase.loadLimit (t : Timebase) : Timebase :=
  if t.limitShadow < t.count then { t with limit := t.limitShadow, count := 0, dir := .up }
  else { t with limit := t.limitShadow }

/-- PERIOD_LIMIT (R51, R52). -/
def State.writePeriodLimit (s : State) (v : BitVec 32) : Taken :=
  if 1 ≤ v.toNat ∧ v.toNat ≤ 65535 then
    let t := { s.timebase with limitShadow := v.toNat }
    State.accept { s with timebase := if t.running then t else t.loadLimit } []
  else s.refuse .nakRange

/-- MARK (R51, R52). -/
def State.writeMark (s : State) (v : BitVec 32) : Taken :=
  if v.toNat ≤ 65535 then
    let t := { s.timebase with markShadow := v.toNat }
    State.accept { s with timebase := if t.running then t else { t with mark := v.toNat } } []
  else s.refuse .nakRange

/-- SYNC_MODE (R61). -/
def State.writeSyncMode (s : State) (v : BitVec 32) : Taken :=
  match decodeSyncMode v.toNat with
  | none => s.refuse .nakRange
  | some m => State.accept { s with timebase := { s.timebase with syncMode := m } } []

/-- HOLD_FILTER (R121). -/
def State.writeHoldFilter (s : State) (v : BitVec 32) : Taken :=
  if v.toNat ∈ [0, 4, 8, 16, 32] then
    State.accept { s with hold := { s.hold with filter := v.toNat } } []
  else s.refuse .nakRange

/-- STALL_LIMIT (R34). -/
def State.writeStallLimit (s : State) (v : BitVec 32) : Taken :=
  if 1 ≤ v.toNat ∧ v.toNat ≤ 65535 then State.accept { s with stallLimit := v.toNat } []
  else s.refuse .nakRange

/-- LOG_KINDS (R160): bits 7..31 are unassigned. -/
def State.writeLogKinds (s : State) (v : BitVec 32) : Taken :=
  if v.toNat < 2 ^ 7 then State.accept { s with log := { s.log with kinds := v.setWidth 7 } } []
  else s.refuse .nakRange

/-- LOG_WATERMARK (R163). -/
def State.writeLogWatermark (s : State) (v : BitVec 32) : Taken :=
  if 1 ≤ v.toNat ∧ v.toNat ≤ 32 then
    State.accept { s with log := { s.log with watermark := v.toNat } } []
  else s.refuse .nakRange

/-- EVENT_ENABLE (R181). -/
def State.writeEventEnable (s : State) (v : BitVec 32) : Taken :=
  if v.toNat < 2 ^ 16 then
    State.accept { s with events := { s.events with enables := v.setWidth 16 } } []
  else s.refuse .nakRange

/-- A REG_WRITE frame: handed to the register's rule, or refused where the number names no register or a
read-only one (R174). -/
def State.takeRegWrite (s : State) (n : Byte) (v : BitVec 32) : Taken :=
  match n.toNat with
  | 0x00 => s.writeTimerMode v
  | 0x01 => s.writePrescale v
  | 0x02 => s.writePeriodLimit v
  | 0x03 => s.writeMark v
  | 0x04 => s.writeSyncMode v
  | 0x05 => s.writeHoldFilter v
  | 0x06 => s.writeStallLimit v
  | 0x07 => s.writeLogKinds v
  | 0x08 => s.writeLogWatermark v
  | 0x09 => s.writeEventEnable v
  | _ => s.refuse .nakRange

end Sys2Proof.Machine
end

