-- ==== Sys2Proof/Machine/Time.lean ====
section
/-! DEFINITION. The period timebase (chapter 3): the tick and the ticks that go by the name of what comes
about at them, and SYNC. A tick is taken whole (R65): every block that counts sees it, the counter makes at most
one step, and all that falls due at it comes about inside the command (log 1). -/

namespace Sys2Proof.Machine

/-! ### The counter (R52 to R58) -/

/-- Both shadows are loaded (R52). -/
def Timebase.load (t : Timebase) : Timebase := { t with limit := t.limitShadow, mark := t.markShadow }

/-- A ZERO event at the counter: the count is 0, the direction UP, the period number rises, the shadows load
(R52, R57). -/
def Timebase.zeroed (t : Timebase) : Timebase :=
  { t.load with count := 0, dir := .up, period := t.period + 1 }

/-- The counter after a step, the events of the step, and the direction of its arrival (R56, R58). -/
structure CounterStep where
  after : Timebase
  events : List TbEvent
  dir : Dir

/-- A list of one event, if it comes about. -/
def eventIf (b : Bool) (e : TbEvent) : List TbEvent := if b then [e] else []

/-- One step in mode UP (R53). -/
def Timebase.stepUp (t : Timebase) : CounterStep :=
  if t.count < t.limit then
    let c := t.count + 1
    { after := { t with count := c, dir := .up },
      events := eventIf (c == t.limit) .limit ++ eventIf (c == t.mark) .markUp, dir := .up }
  else
    let z := t.zeroed
    { after := z, events := .zero :: eventIf (z.mark == 0) .markUp, dir := .up }

/-- One step in mode UPDOWN (R54). -/
def Timebase.stepUpdown (t : Timebase) : CounterStep :=
  match t.dir with
  | .up =>
    let c := t.count + 1
    { after := { t with count := c, dir := if c = t.limit then .down else .up },
      events := eventIf (c == t.limit) .peak ++ eventIf (c == t.mark) .markUp, dir := .up }
  | .down =>
    let c := t.count - 1
    if c = 0 then
      let z := t.zeroed
      { after := z, events := .zero :: eventIf (z.mark == 0) .markDown, dir := .down }
    else
      { after := { t with count := c }, events := eventIf (c == t.mark) .markDown, dir := .down }

/-- One step in mode ONESHOT (R55). -/
def Timebase.stepOneshot (t : Timebase) : CounterStep :=
  let c := t.count + 1
  { after := { t with count := c, dir := .up, running := c != t.limit },
    events := eventIf (c == t.limit) .limit ++ eventIf (c == t.mark) .markUp, dir := .up }

/-- What a tick does to the counter: nothing while STOPPED, one step while RUNNING (section 3.4). -/
def Timebase.step (t : Timebase) : CounterStep :=
  if t.running then
    match t.mode with
    | .up => t.stepUp
    | .updown => t.stepUpdown
    | .oneshot => t.stepOneshot
  else { after := t, events := [], dir := t.dir }

/-- The timestamp that every event of the step carries (R58). -/
def CounterStep.stamp (c : CounterStep) : Stamp :=
  { period := c.after.period, count := c.after.count, dir := c.dir }

/-! ### One tick (R48) -/

/-- The stalled write one tick older (R34). -/
def StalledWrite.aged (w : StalledWrite) : StalledWrite := { w with elapsed := satAdd w.elapsed 1 }

/-- The sealed slot one tick older (R97). -/
def Group.aged (r : Group) : Group :=
  { r with slot := r.slot.map fun sl => { sl with elapsed := satAdd sl.elapsed 1 } }

/-- The hold unit after a tick's count (R123). -/
def Hold.ticked (h : Hold) : Hold :=
  if h.state = .filtering then { h with counter := h.counter + 1 } else h

/-- The counts that a tick advances: the stalled write's elapsed ticks, the sealed slots' elapsed ticks, the
filter counter, the period counter. The interval that begins takes PRESCALE as its divisor (R47, R48). -/
def State.advance (s : State) : State :=
  { s with
    stall := s.stall.map StalledWrite.aged
    groups := Vector.ofFn fun g => s.groups[g].aged
    hold := s.hold.ticked
    timebase := { s.timebase.step.after with interval := s.timebase.prescale } }

/-- The stalled write expires at this tick: its elapsed count has reached STALL_LIMIT (R35). -/
def State.stallDue (s : State) : Bool := s.stall.any fun w => decide (s.stallLimit ≤ w.elapsed)

/-- The filter is complete at this tick (R123). -/
def State.filterDue (s : State) : Bool :=
  decide (s.hold.state = .filtering) && decide (s.hold.filter ≤ s.hold.counter)

/-- All that falls due at the next tick, by the state the tick's counts leave (R35, R60, R68, R123). -/
def State.dueAtTick (s : State) : List Due :=
  let a := s.advance
  let c := s.timebase.step
  (if a.stallDue then [Due.stallExpiry] else []) ++ (if a.filterDue then [Due.filterComplete] else []) ++
    a.deliveries c.events c.stamp

/-- A whole tick, with what `first` selects taken before the rest (R48, R65, log 1). -/
def State.tickFirst (s : State) (first : Due → Bool) : State := s.advance.applyAll first s.dueAtTick

/-- The delivery of an event of this kind. -/
def Due.delivers (k : TbEvent) : Due → Bool
  | .deliver _ e _ => e == k
  | _ => false

/-- The tick at which the counter's step produces the event, with its deliveries first. At a tick whose step does
not produce it, it does not come about (log 1, log 3). -/
def State.tickOf (s : State) (k : TbEvent) : State :=
  if !s.inReset && s.timebase.step.events.contains k then s.tickFirst (Due.delivers k) else s

/-- TICK (R47, R48). No tick runs while RST_N is asserted (R48). -/
def execTick (s : State) : Host.Outcome State Fault Refusal :=
  if s.inReset then .next s else .next (s.tickFirst fun _ => false)

/-- LIMIT (R53, R55). -/
def execLimit (s : State) : Host.Outcome State Fault Refusal := .next (s.tickOf .limit)

/-- ZERO (R53, R54, R57). -/
def execZero (s : State) : Host.Outcome State Fault Refusal := .next (s.tickOf .zero)

/-- PEAK (R54). -/
def execPeak (s : State) : Host.Outcome State Fault Refusal := .next (s.tickOf .peak)

/-- MARK_UP (R56). -/
def execMarkUp (s : State) : Host.Outcome State Fault Refusal := .next (s.tickOf .markUp)

/-- MARK_DOWN (R56). -/
def execMarkDown (s : State) : Host.Outcome State Fault Refusal := .next (s.tickOf .markDown)

/-- STALL_TIMEOUT (R35): the tick at which the stalled write expires, with the expiry first. -/
def execStallTimeout (s : State) : Host.Outcome State Fault Refusal :=
  if !s.inReset && s.advance.stallDue then .next (s.tickFirst fun d => d == .stallExpiry) else .next s

/-- FILTER_COMPLETE (R123): the tick at which the filter completes, with the entry to HELD first. -/
def execFilterComplete (s : State) : Host.Outcome State Fault Refusal :=
  if !s.inReset && s.advance.filterDue then .next (s.tickFirst fun d => d == .filterComplete) else .next s

/-! ### SYNC (R61) -/

/-- Events of one SYNC edge are delivered with one timestamp (R58, R60). -/
def State.deliverAll (s : State) (events : List TbEvent) (ts : Stamp) : State :=
  s.applyAll (fun _ => false) (s.deliveries events ts)

/-- A SYNC restart (R61). -/
def State.syncRestart (s : State) : State :=
  let t := { s with timebase := s.timebase.zeroed }
  t.deliverAll [.sync, .zero] t.now

/-- SYNC_ARRIVAL (R61). An edge while RST_N is asserted is not observed (R49). -/
def execSyncArrival (s : State) : Host.Outcome State Fault Refusal :=
  if s.inReset then .next s
  else match s.timebase.syncMode with
    | .ignore => .next s
    | .event => .next (s.deliverAll [.sync] s.now)
    | .restart =>
      if s.timebase.running then .next s.syncRestart else .next (s.deliverAll [.sync] s.now)

end Sys2Proof.Machine
end

