-- ==== Sys2Proof/Machine/Actions.lean ====
section
/-! DEFINITION. The actions of Table 10-2 as their owning blocks take them, the quiesce of DATAPATH_RESET (section
8.6), the log reads, PROBE and STATUS (R164, R165, R178, R179). -/

namespace Sys2Proof.Machine

/-- A taken action other than PUBLISH and EVENT_ACK: two bytes of 0 (R176). -/
def State.acted (s : State) : Taken := s.accept [0, 0]

/-! ### Timer actions (R62 to R64) -/

/-- The count begins again from 0, going up, with the shadows loaded. -/
def Timebase.restarted (t : Timebase) : Timebase := { t.load with count := 0, dir := .up, running := true }

/-- TIMER_START (R62). -/
def State.takeTimerStart (s : State) : Taken :=
  if s.timebase.running then s.refuse .nakState
  else State.acted { s with timebase := s.timebase.restarted }

/-- TIMER_STOP (R63). -/
def State.takeTimerStop (s : State) : Taken :=
  State.acted { s with timebase := { s.timebase with running := false } }

/-- TIMER_RESTART (R64). -/
def State.takeTimerRestart (s : State) : Taken :=
  if s.timebase.running then State.acted { s with timebase := s.timebase.restarted }
  else s.refuse .nakState

/-! ### Group actions (R74, R38) -/

/-- The groups a mask names. -/
def namedGroups (mask : Byte) : List GroupId := allGroups.filter fun g => mask.getLsbD g

/-- A MANUAL request to one group: the state, and the taken mask with the group's bit set if it sealed (R72, R74). -/
def manualRequest (acc : State × Byte) (g : GroupId) : State × Byte :=
  if acc.1.canSeal g then (acc.1.sealFull g .manual acc.1.now, acc.2 ||| BitVec.twoPow 8 g) else acc

/-- PUBLISH (R74). The order among the named groups is free (log 2). -/
def State.takePublish (s : State) (mask : Byte) : Taken :=
  if 16 ≤ mask.toNat then s.refuse .nakRange
  else if s.quiescing then s.refuse .nakBusy
  else
    let l := namedGroups mask
    let q := (arrange s.draws l).foldl manualRequest (s.drew l.length, 0)
    q.1.accept [q.2, 0]

/-- DISCARD (R38). -/
def State.takeDiscard (s : State) (mask : Byte) : Taken :=
  if 16 ≤ mask.toNat then s.refuse .nakRange
  else if s.quiescing then s.refuse .nakBusy
  else
    let t := (namedGroups mask).foldl State.discardOpen s
    (if t.poolUsed < s.poolUsed then t.retry else t).acted

/-! ### Region actions (R11, R12) -/

/-- REGION_ENABLE (R11). -/
def State.takeRegionEnable (s : State) (i : Byte) : Taken :=
  if h : i.toNat < 8 then
    let r : RegionId := ⟨i.toNat, h⟩
    if s.quiescing then s.refuse .nakBusy
    else if s.regions[r].state ≠ .off then s.refuse .nakState
    else if allRegions.any fun q => s.regions[q].active && s.regions[r].overlaps s.regions[q] then
      s.refuse .nakOverlap
    else (s.modRegion r fun x => { x with state := .staging }).acted
  else s.refuse .nakRange

/-- REGION_RETIRE (R12). -/
def State.takeRegionRetire (s : State) (i : Byte) : Taken :=
  if h : i.toNat < 8 then
    let r : RegionId := ⟨i.toNat, h⟩
    if s.quiescing then s.refuse .nakBusy
    else if s.regions[r].state ≠ .staging then s.refuse .nakState
    else if s.held then s.refuse .nakState
    else ((s.modRegion r fun x => { x with state := .retireWait }).retireRequest s.regions[r].group).acted
  else s.refuse .nakRange

/-! ### Hold actions (R125, R130) -/

/-- HOLD_SET (R125). -/
def State.takeHoldSet (s : State) : Taken :=
  if s.held then s.acted else (s.enterHeld .software).acted

/-- HOLD_RELEASE (R130). -/
def State.takeHoldRelease (s : State) : Taken :=
  match s.hold.state with
  | .clear => s.acted
  | .filtering => s.refuse .nakState
  | .held => if s.hldLow then s.refuse .nakState else s.release.acted

/-! ### Log and event actions (R166, R182, R184) -/

/-- LOG_CLEAR (R166). -/
def State.takeLogClear (s : State) : Taken :=
  State.acted { s with log := { s.log with records := [], lost := 0 } }

/-- EVENT_ACK (R182): the reply carries the flags as they stand after the clearing (R176). -/
def State.takeEventAck (s : State) (mask : BitVec 16) : Taken :=
  let t := s.clearFlags mask
  t.accept (bytes16 t.events.flags)

/-- COUNTERS_CLEAR (R184). -/
def State.takeCountersClear (s : State) : Taken :=
  State.acted { s with events := { s.events with counters := Vector.replicate 26 0 } }

/-! ### The quiesce (R147 to R149) -/

/-- Nothing is left on the path: forward queue, D-port request channel, downstream tags (R149). -/
def State.pathEmpty (s : State) : Bool :=
  s.forwardQueue.isEmpty && s.channel.isNone &&
  (allTags.all fun t => s.outstanding[t].isNone) &&
  (([0, 1, 2, 3] : List (Fin 4)).all fun d => s.drainTags[d].isNone)

/-- Steps 1 and 2 of the last step for one group's sealed slot: its DRAIN_DONE record, abandoned unless every entry
was answered, and DONE(g) (R99, R149). -/
def State.abandon (s : State) (g : GroupId) : State :=
  match s.groups[g].slot with
  | none => s
  | some sl => s.reportDone g sl (sl.written + sl.failed != sl.entries)

/-- A group after the last step of a quiesce (R19, R99). -/
def Group.quiesced (r : Group) : Group := { r with slot := none, dividerCount := 0, pendingRetire := false }

/-- A region after the last step of a quiesce (R15). -/
def Region.quiesced (r : Region) : Region :=
  if r.state = .retireWait ∨ r.state = .retireDrain then { r with state := .off } else r

/-- Steps 3 to 7 of the last step: ready queue, groups and regions, QUIESCED, and the end of the quiesce (R149). -/
def State.endQuiesce (s : State) : State :=
  let t := { s with
    ready := []
    groups := Vector.ofFn fun g => s.groups[g].quiesced
    regions := Vector.ofFn fun r => s.regions[r].quiesced }
  { (t.raise .quiesced) with quiescing := false }

/-- The last step of a quiesce, steps 1 to 7 (R149). -/
def State.lastStep (s : State) : State :=
  (allGroups.foldl State.abandon { (allGroups.foldl State.discardOpen s) with pool := [] }).endQuiesce

/-- DATAPATH_RESET (R147, R149): the first step, and the last within the same action where nothing is left on the
path. A drain write presented and not granted is withdrawn by `drainWrite` itself (R98). -/
def State.takeDatapathReset (s : State) : Taken :=
  if s.quiescing then s.refuse .nakBusy
  else
    let t := State.refuseStalled { s with quiescing := true }
    (if t.pathEmpty then t.lastStep else t).acted

/-- QUIESCE_END (R149): the last step, taken when the part is quiescing and nothing is left on the path (log 13). -/
def execQuiesceEnd (s : State) : Host.Outcome State Fault Refusal :=
  if !s.inReset && s.quiescing && s.pathEmpty then .next s.lastStep else .next s

/-! ### Log reads (R164, R165), PROBE (R178, R45), STATUS (R179) -/

/-- LOG_POP (R164). -/
def State.takeLogPop (s : State) : Taken :=
  match s.log.records with
  | [] => s.refuse .empty
  | r :: rest => State.accept { s with log := { s.log with records := rest } } r.bytes

/-- LOG_PEEK (R165). -/
def State.takeLogPeek (s : State) : Taken :=
  match s.log.records with
  | [] => s.refuse .empty
  | r :: _ => s.accept r.bytes

/-- The entry of a role that holds a doubleword, of any group (R45). -/
def State.probeEntry (s : State) (r : Role) (a : Addr) : Option Entry :=
  s.pool.find? fun e => decide (e.role = r) && decide (e.addr = doubleword a)

/-- The mask of a probed entry, 0 when absent. -/
def probeMask (e : Option Entry) : LaneMask := e.elim 0 Entry.mask

/-- The data of a probed entry, lanes outside its mask 0, all 0 when absent. -/
def probeData (e : Option Entry) : Lanes := e.elim Lanes.zero fun x => maskLanes x.mask x.data

/-- The twenty bytes of a PROBE reply (Table 10-8). -/
def State.probeBytes (s : State) (a : Addr) : List Byte :=
  let o := s.probeEntry .opened a
  let c := s.probeEntry .sealed a
  let g : Nat := match o, c with
    | some e, _ => e.group
    | none, some e => e.group
    | none, none => 0
  [byteOf g, 0#6 ++ boolBit c.isSome ++ boolBit o.isSome, probeMask o, probeMask c] ++
  (probeData o).toList ++ (probeData c).toList

/-- A PROBE frame (R178). -/
def State.takeProbe (s : State) (a : Addr) : Taken := s.accept (s.probeBytes a)

/-- The four bytes of a STATUS reply (Table 10-9). -/
def State.statusBytes (s : State) : List Byte :=
  bytes16 s.events.flags ++
  [0#2 ++ stallCode s.stall ++ boolBit s.quiescing ++ boolBit s.timebase.running ++ HoldState.code s.hold.state,
    byteOf s.poolUsed]

/-- A STATUS frame (R179). -/
def State.takeStatus (s : State) : Taken := s.accept s.statusBytes

end Sys2Proof.Machine
end

