-- ==== Sys2Proof/Machine/Records.lean ====
section
/-! DEFINITION. RECORD_READ and RECORD_WRITE of the three record classes (R2, R3, R17, R18, R155) in the layouts of
Table 10-6. -/

namespace Sys2Proof.Machine

/-! ### Regions -/

/-- The nine bytes of a region record. -/
def Region.bytes (r : Region) : List Byte :=
  bytes32 r.base ++ [byteOf r.sizeCode, byteOf r.group, byteOf (View.code r.view),
    byteOf (FullPolicy.code r.policy), byteOf (RegionState.code r.state)]

/-- The record that the five carried fields describe, OFF; `none` where a field is refused (R2 test 3). -/
def RegionFields.decode (f : RegionFields) : Option Region :=
  if 8 ≤ f.sizeCode.toNat ∧ f.sizeCode.toNat ≤ 24 ∧ f.base.toNat % 2 ^ f.sizeCode.toNat = 0 then
    match decodeGroupId f.group.toNat, decodeView f.view.toNat, decodePolicy f.policy.toNat with
    | some g, some v, some p =>
      some { base := f.base, sizeCode := f.sizeCode.toNat, group := g, view := v, policy := p, state := .off }
    | _, _, _ => none
  else none

/-- RECORD_READ of class REGION (R3). -/
def State.takeReadRegion (s : State) (i : Byte) : Taken :=
  if h : i.toNat < 8 then s.accept s.regions[i.toNat].bytes else s.refuse .nakRange

/-- RECORD_WRITE of class REGION (R2). -/
def State.takeWriteRegion (s : State) (i : Byte) (f : RegionFields) : Taken :=
  if h : i.toNat < 8 then
    if s.regions[i.toNat].state ≠ .off then s.refuse .nakState
    else match RegionFields.decode f with
      | none => s.refuse .nakRange
      | some r => State.accept { s with regions := s.regions.set i.toNat r } []
  else s.refuse .nakRange

/-! ### Groups -/

/-- The fifteen bytes of a group record with its status; the three last read 0 while the slot is NONE (R18). -/
def State.groupBytes (s : State) (g : GroupId) : List Byte :=
  let r := s.groups[g]
  [byteOf (Source.code r.source), byteOf r.divider, byteOf r.quota, byteOf (HoldPolicy.code r.holdPolicy),
    boolByte r.pressureSeal] ++ bytes16 r.openGen ++
  [byteOf (s.openCount g), byteOf r.dividerCount, boolByte r.pendingRetire, (slotCode r.slot).setWidth 8] ++
  bytes16 (r.slot.elim 0 SealedSlot.gen) ++
  [byteOf (r.slot.elim 0 SealedSlot.entries), byteOf (r.slot.elim 0 SealedSlot.fence)]

/-- RECORD_READ of class GROUP (R18). -/
def State.takeReadGroup (s : State) (i : Byte) : Taken :=
  if h : i.toNat < 4 then s.accept (s.groupBytes ⟨i.toNat, h⟩) else s.refuse .nakRange

/-- The five carried fields replace the group's, and the divider count becomes 0; `none` where a field is refused
(R17 test 2). Of the pressure seal byte only the low bit is read (R175). -/
def GroupFields.decode (f : GroupFields) (r : Group) : Option Group :=
  if 1 ≤ f.divider.toNat ∧ f.divider.toNat ≤ 16 ∧ 1 ≤ f.quota.toNat ∧ f.quota.toNat ≤ 64 then
    match decodeSource f.source.toNat, decodeHoldPolicy f.holdPolicy.toNat with
    | some src, some p =>
      some { r with
        source := src, divider := f.divider.toNat, quota := f.quota.toNat, holdPolicy := p,
        pressureSeal := f.pressureSeal.getLsbD 0, dividerCount := 0 }
    | _, _ => none
  else none

/-- RECORD_WRITE of class GROUP (R17). A raised quota is offered to the stall slot (R33). -/
def State.takeWriteGroup (s : State) (i : Byte) (f : GroupFields) : Taken :=
  if h : i.toNat < 4 then
    let g : GroupId := ⟨i.toNat, h⟩
    match GroupFields.decode f s.groups[g] with
    | none => s.refuse .nakRange
    | some r =>
      if s.held && r.holdPolicy != s.groups[g].holdPolicy then s.refuse .nakState
      else if r.quota < s.openCount g then s.refuse .nakRange
      else
        let t := s.modGroup g fun _ => r
        (if s.groups[g].quota < r.quota then t.retry else t).accept []
  else s.refuse .nakRange

/-! ### Watches -/

/-- The twelve bytes of a watch record. -/
def Watch.bytes (w : Watch) : List Byte :=
  bytes32 w.low ++ bytes32 w.high ++ [byteOf (WatchKinds.code w.kinds), byteOf w.decimation,
    boolByte w.enabled, byteOf w.counter]

/-- The record that the five carried fields describe, its counter 0; `none` where a field is refused (R155 test 2).
Of the enable byte only the low bit is read (R175). -/
def WatchFields.decode (f : WatchFields) : Option Watch :=
  if f.decimation.toNat ∈ [1, 4, 16] ∧ f.low.toNat ≤ f.high.toNat then
    match decodeWatchKinds f.kinds.toNat with
    | some k =>
      some { low := f.low, high := f.high, kinds := k, decimation := f.decimation.toNat,
             enabled := f.enable.getLsbD 0, counter := 0 }
    | none => none
  else none

/-- RECORD_READ of class WATCH (R155). -/
def State.takeReadWatch (s : State) (i : Byte) : Taken :=
  if h : i.toNat < 4 then s.accept s.watches[i.toNat].bytes else s.refuse .nakRange

/-- RECORD_WRITE of class WATCH (R155). -/
def State.takeWriteWatch (s : State) (i : Byte) (f : WatchFields) : Taken :=
  if h : i.toNat < 4 then
    match WatchFields.decode f with
    | none => s.refuse .nakRange
    | some w => State.accept { s with watches := s.watches.set i.toNat w } []
  else s.refuse .nakRange

end Sys2Proof.Machine
end

