-- ==== Sys2Proof/Machine/Frames.lean ====
section
/-! DEFINITION. The management port (section 10.1): the request bytes of each frame (Tables 10-5 and 10-6), the
receiver that collects them, the taking of a frame and the shifting out of its reply. The port is modelled a byte
at a time (log 15). -/

namespace Sys2Proof.Machine

/-! ### Requests -/

/-- A complete request: one form for each kind of frame, with its operands. -/
inductive Frame where
  | nak (bad : BadRequest)
  | regRead (reg : Byte)
  | regWrite (reg : Byte) (value : BitVec 32)
  | readRegion (index : Byte)
  | writeRegion (index : Byte) (fields : RegionFields)
  | readGroup (index : Byte)
  | writeGroup (index : Byte) (fields : GroupFields)
  | readWatch (index : Byte)
  | writeWatch (index : Byte) (fields : WatchFields)
  | timerStart (arg : Byte)
  | timerStop (arg : Byte)
  | timerRestart (arg : Byte)
  | publish (mask : Byte)
  | discard (mask : Byte)
  | regionEnable (index : Byte)
  | regionRetire (index : Byte)
  | holdSet (arg : Byte)
  | holdRelease (arg : Byte)
  | logClear (arg : Byte)
  | eventAck (mask : BitVec 16)
  | countersClear (arg : Byte)
  | datapathReset (arg : Byte)
  | logPop
  | logPeek
  | probe (addr : Addr)
  | status
deriving DecidableEq, Repr

/-- The request bytes of a frame, kind byte first (Tables 10-5 and 10-6). -/
def Frame.bytes : Frame → List Byte
  | .nak (.kind k) => [k]
  | .nak (.readClass c) => [0x13, c]
  | .nak (.writeClass c) => [0x14, c]
  | .nak (.actionCode c) => [0x15, c]
  | .regRead r => [0x11, r]
  | .regWrite r v => [0x12, r] ++ bytes32 v
  | .readRegion i => [0x13, 0x01, i]
  | .readGroup i => [0x13, 0x02, i]
  | .readWatch i => [0x13, 0x03, i]
  | .writeRegion i f => [0x14, 0x01, i] ++ bytes32 f.base ++ [f.sizeCode, f.group, f.view, f.policy]
  | .writeGroup i f => [0x14, 0x02, i, f.source, f.divider, f.quota, f.holdPolicy, f.pressureSeal]
  | .writeWatch i f =>
    [0x14, 0x03, i] ++ bytes32 f.low ++ bytes32 f.high ++ [f.kinds, f.decimation, f.enable]
  | .timerStart a => [0x15, 0x01, a]
  | .timerStop a => [0x15, 0x02, a]
  | .timerRestart a => [0x15, 0x03, a]
  | .publish m => [0x15, 0x04, m]
  | .discard m => [0x15, 0x05, m]
  | .regionEnable i => [0x15, 0x06, i]
  | .regionRetire i => [0x15, 0x07, i]
  | .holdSet a => [0x15, 0x08, a]
  | .holdRelease a => [0x15, 0x09, a]
  | .logClear a => [0x15, 0x0A, a]
  | .eventAck m => [0x15, 0x0B] ++ bytes16 m
  | .countersClear a => [0x15, 0x0C, a]
  | .datapathReset a => [0x15, 0x0D, a]
  | .logPop => [0x16]
  | .logPeek => [0x17]
  | .probe a => [0x18] ++ bytes32 a
  | .status => [0x19]

/-- A record read: class byte, then index. -/
def parseRead : List Byte → Option Frame
  | c :: args =>
    match c.toNat, args with
    | 0x01, [i] => some (.readRegion i)
    | 0x02, [i] => some (.readGroup i)
    | 0x03, [i] => some (.readWatch i)
    | k, _ => if 1 ≤ k ∧ k ≤ 3 then none else some (.nak (.readClass c))
  | [] => none

/-- A record write: class byte, then index and fields. -/
def parseWrite : List Byte → Option Frame
  | c :: args =>
    match c.toNat, args with
    | 0x01, [i, a0, a1, a2, a3, z, g, v, p] =>
      some (.writeRegion i { base := word32 a0 a1 a2 a3, sizeCode := z, group := g, view := v, policy := p })
    | 0x02, [i, src, d, q, h, p] =>
      some (.writeGroup i { source := src, divider := d, quota := q, holdPolicy := h, pressureSeal := p })
    | 0x03, [i, l0, l1, l2, l3, h0, h1, h2, h3, k, d, e] =>
      some (.writeWatch i { low := word32 l0 l1 l2 l3, high := word32 h0 h1 h2 h3, kinds := k,
                            decimation := d, enable := e })
    | k, _ => if 1 ≤ k ∧ k ≤ 3 then none else some (.nak (.writeClass c))
  | [] => none

/-- An action: code byte, then its argument bytes (R176). -/
def parseAction : List Byte → Option Frame
  | c :: args =>
    match c.toNat, args with
    | 0x01, [a] => some (.timerStart a)
    | 0x02, [a] => some (.timerStop a)
    | 0x03, [a] => some (.timerRestart a)
    | 0x04, [a] => some (.publish a)
    | 0x05, [a] => some (.discard a)
    | 0x06, [a] => some (.regionEnable a)
    | 0x07, [a] => some (.regionRetire a)
    | 0x08, [a] => some (.holdSet a)
    | 0x09, [a] => some (.holdRelease a)
    | 0x0A, [a] => some (.logClear a)
    | 0x0B, [a0, a1] => some (.eventAck (word16 a0 a1))
    | 0x0C, [a] => some (.countersClear a)
    | 0x0D, [a] => some (.datapathReset a)
    | k, _ => if 1 ≤ k ∧ k ≤ 0x0D then none else some (.nak (.actionCode c))
  | [] => none

/-- The request that the bytes received so far make; `none` while it needs more bytes (R170). -/
def parseRequest : List Byte → Option Frame
  | k :: args =>
    match k.toNat, args with
    | 0x11, [r] => some (.regRead r)
    | 0x12, [r, v0, v1, v2, v3] => some (.regWrite r (word32 v0 v1 v2 v3))
    | 0x13, _ => parseRead args
    | 0x14, _ => parseWrite args
    | 0x15, _ => parseAction args
    | 0x16, [] => some .logPop
    | 0x17, [] => some .logPeek
    | 0x18, [a0, a1, a2, a3] => some (.probe (word32 a0 a1 a2 a3))
    | 0x19, [] => some .status
    | n, _ => if 0x11 ≤ n ∧ n ≤ 0x19 then none else some (.nak (.kind k))
  | [] => none

/-! ### Taking a frame (R170, R172) -/

/-- The request is handed to its owning block, which takes or refuses it (R170, R174 to R176). -/
def State.hand (s : State) : Frame → Taken
  | .nak _ => s.refuse .nakFrame
  | .regRead r => s.takeRegRead r
  | .regWrite r v => s.takeRegWrite r v
  | .readRegion i => s.takeReadRegion i
  | .writeRegion i f => s.takeWriteRegion i f
  | .readGroup i => s.takeReadGroup i
  | .writeGroup i f => s.takeWriteGroup i f
  | .readWatch i => s.takeReadWatch i
  | .writeWatch i f => s.takeWriteWatch i f
  | .timerStart _ => s.takeTimerStart
  | .timerStop _ => s.takeTimerStop
  | .timerRestart _ => s.takeTimerRestart
  | .publish m => s.takePublish m
  | .discard m => s.takeDiscard m
  | .regionEnable i => s.takeRegionEnable i
  | .regionRetire i => s.takeRegionRetire i
  | .holdSet _ => s.takeHoldSet
  | .holdRelease _ => s.takeHoldRelease
  | .logClear _ => s.takeLogClear
  | .eventAck m => s.takeEventAck m
  | .countersClear _ => s.takeCountersClear
  | .datapathReset _ => s.takeDatapathReset
  | .logPop => s.takeLogPop
  | .logPeek => s.takeLogPeek
  | .probe a => s.takeProbe a
  | .status => s.takeStatus

/-- The port after a frame is taken: the reply stands whole in the reply buffer and the pad byte comes next. The
byte time of the last request byte drove 0 on MISO (R169, R170, R172). -/
def Port.taken (reply : List Byte) : Port :=
  { rx := .pad, got := [], reply := reply, sent := 0, miso := some 0 }

/-- The state with a reply standing in the reply buffer, status byte first (R170, R172). -/
def State.replied (s : State) (st : Status) (payload : List Byte) : State :=
  { s with port := Port.taken (st.byte :: payload) }

/-- A frame is taken (R170). -/
def State.takeFrame (s : State) (f : Frame) : State :=
  let t := s.hand f
  t.state.replied t.status t.payload

/-! ### Clocking a byte (R169, R170) -/

/-- One reply byte is shifted out; with the last of them the receiver is SPENT (R169). -/
def Port.shift (p : Port) : Port :=
  { p with
    rx := if p.sent + 1 < p.reply.length then .reply else .spent
    sent := p.sent + 1
    miso := some (p.reply.getD p.sent 0) }

/-- Eight SCLK periods carrying a byte on MOSI, by the state of the receiver (R169, R170, R171). While RST_N is
asserted, while CS_N is high and while BLOCKED they are ignored. -/
def State.clockByte (s : State) (b : Byte) : State :=
  if s.inReset then s
  else match s.port.rx with
    | .idle | .blocked => s
    | .request =>
      let got := s.port.got ++ [b]
      match parseRequest got with
      | none => { s with port := { s.port with got := got, miso := some 0 } }
      | some f => s.takeFrame f
    | .pad => { s with port := { s.port with rx := .reply, miso := some 0 } }
    | .reply => { s with port := s.port.shift }
    | .spent => { s with port := { s.port with miso := some 0 } }

/-- The receiver is REQUEST and has received nothing of this frame yet. -/
def State.fresh (s : State) : Bool := !s.inReset && s.port.rx == .request && s.port.got.isEmpty

/-- A row of the table that names a frame: its whole request is clocked in. Where a frame has just begun it is
taken; elsewhere its bytes meet the receiver as any bytes do (log 17). -/
def State.frameRow (s : State) (f : Frame) : State :=
  if s.fresh then s.takeFrame f else f.bytes.foldl State.clockByte s

/-! ### CS_N (R169, R170, R171) -/

/-- The port when CS_N falls. -/
def Port.opened : Port := { rx := .request, got := [], reply := [], sent := 0, miso := none }

/-- CS_N falls: a frame begins. While RST_N is asserted the port ignores it (R171). -/
def State.csFall (s : State) : State :=
  let t := { s with csLow := true }
  if !s.inReset && s.port.rx == .idle then { t with port := Port.opened } else t

/-- CS_N rises: the frame ends, and what was taken stands (R170). While RST_N is asserted the port ignores it
(R171). -/
def State.csRise (s : State) : State :=
  let t := { s with csLow := false }
  if s.inReset then t else { t with port := Port.reset }

end Sys2Proof.Machine
end

