-- ==== Sys2Proof/Machine/Commands.lean ====
section
/-! DEFINITION. The commands of the management port: one meaning for each row that names a frame, and CS_N_FALL,
CS_N_RISE and SCLK_BYTE. Each frame row is its request put to the receiver (R170). -/

namespace Sys2Proof.Machine

/-- NAK_FRAME (R170). -/
def execNakFrame (bad : BadRequest) (s : State) : Host.Outcome State Fault Refusal :=
  .next (s.frameRow (.nak bad))

/-- REG_READ (R173). -/
def execRegRead (reg : Byte) (s : State) : Host.Outcome State Fault Refusal :=
  .next (s.frameRow (.regRead reg))

/-- REG_WRITE (R174). -/
def execRegWrite (reg : Byte) (value : BitVec 32) (s : State) : Host.Outcome State Fault Refusal :=
  .next (s.frameRow (.regWrite reg value))

/-- WRITE_TIMER_MODE: a REG_WRITE of register 0x00 (R50, R174). -/
def execWriteTimerMode (value : BitVec 32) (s : State) : Host.Outcome State Fault Refusal :=
  .next (s.frameRow (.regWrite 0x00 value))

/-- WRITE_PRESCALE: a REG_WRITE of register 0x01 (R47, R174). -/
def execWritePrescale (value : BitVec 32) (s : State) : Host.Outcome State Fault Refusal :=
  .next (s.frameRow (.regWrite 0x01 value))

/-- WRITE_PERIOD_LIMIT: a REG_WRITE of register 0x02 (R51, R52, R174). -/
def execWritePeriodLimit (value : BitVec 32) (s : State) : Host.Outcome State Fault Refusal :=
  .next (s.frameRow (.regWrite 0x02 value))

/-- WRITE_MARK: a REG_WRITE of register 0x03 (R51, R52, R174). -/
def execWriteMark (value : BitVec 32) (s : State) : Host.Outcome State Fault Refusal :=
  .next (s.frameRow (.regWrite 0x03 value))

/-- WRITE_SYNC_MODE: a REG_WRITE of register 0x04 (R61, R174). -/
def execWriteSyncMode (value : BitVec 32) (s : State) : Host.Outcome State Fault Refusal :=
  .next (s.frameRow (.regWrite 0x04 value))

/-- WRITE_HOLD_FILTER: a REG_WRITE of register 0x05 (R121, R174). -/
def execWriteHoldFilter (value : BitVec 32) (s : State) : Host.Outcome State Fault Refusal :=
  .next (s.frameRow (.regWrite 0x05 value))

/-- WRITE_STALL_LIMIT: a REG_WRITE of register 0x06 (R34, R174). -/
def execWriteStallLimit (value : BitVec 32) (s : State) : Host.Outcome State Fault Refusal :=
  .next (s.frameRow (.regWrite 0x06 value))

/-- WRITE_LOG_KINDS: a REG_WRITE of register 0x07 (R160, R174). -/
def execWriteLogKinds (value : BitVec 32) (s : State) : Host.Outcome State Fault Refusal :=
  .next (s.frameRow (.regWrite 0x07 value))

/-- WRITE_LOG_WATERMARK: a REG_WRITE of register 0x08 (R163, R174). -/
def execWriteLogWatermark (value : BitVec 32) (s : State) : Host.Outcome State Fault Refusal :=
  .next (s.frameRow (.regWrite 0x08 value))

/-- WRITE_EVENT_ENABLE: a REG_WRITE of register 0x09 (R181, R174). -/
def execWriteEventEnable (value : BitVec 32) (s : State) : Host.Outcome State Fault Refusal :=
  .next (s.frameRow (.regWrite 0x09 value))

/-- RECORD_READ_REGION (R3). -/
def execRecordReadRegion (index : Byte) (s : State) : Host.Outcome State Fault Refusal :=
  .next (s.frameRow (.readRegion index))

/-- RECORD_WRITE_REGION (R2). -/
def execRecordWriteRegion (index : Byte) (fields : RegionFields) (s : State) : Host.Outcome State Fault Refusal :=
  .next (s.frameRow (.writeRegion index fields))

/-- RECORD_READ_GROUP (R18). -/
def execRecordReadGroup (index : Byte) (s : State) : Host.Outcome State Fault Refusal :=
  .next (s.frameRow (.readGroup index))

/-- RECORD_WRITE_GROUP (R17). -/
def execRecordWriteGroup (index : Byte) (fields : GroupFields) (s : State) : Host.Outcome State Fault Refusal :=
  .next (s.frameRow (.writeGroup index fields))

/-- RECORD_READ_WATCH (R155). -/
def execRecordReadWatch (index : Byte) (s : State) : Host.Outcome State Fault Refusal :=
  .next (s.frameRow (.readWatch index))

/-- RECORD_WRITE_WATCH (R155). -/
def execRecordWriteWatch (index : Byte) (fields : WatchFields) (s : State) : Host.Outcome State Fault Refusal :=
  .next (s.frameRow (.writeWatch index fields))

/-- TIMER_START (R62). -/
def execTimerStart (arg : Byte) (s : State) : Host.Outcome State Fault Refusal :=
  .next (s.frameRow (.timerStart arg))

/-- TIMER_STOP (R63). -/
def execTimerStop (arg : Byte) (s : State) : Host.Outcome State Fault Refusal :=
  .next (s.frameRow (.timerStop arg))

/-- TIMER_RESTART (R64). -/
def execTimerRestart (arg : Byte) (s : State) : Host.Outcome State Fault Refusal :=
  .next (s.frameRow (.timerRestart arg))

/-- PUBLISH (R74). -/
def execPublish (mask : Byte) (s : State) : Host.Outcome State Fault Refusal :=
  .next (s.frameRow (.publish mask))

/-- DISCARD (R38). -/
def execDiscard (mask : Byte) (s : State) : Host.Outcome State Fault Refusal :=
  .next (s.frameRow (.discard mask))

/-- REGION_ENABLE (R11). -/
def execRegionEnable (index : Byte) (s : State) : Host.Outcome State Fault Refusal :=
  .next (s.frameRow (.regionEnable index))

/-- REGION_RETIRE (R12). -/
def execRegionRetire (index : Byte) (s : State) : Host.Outcome State Fault Refusal :=
  .next (s.frameRow (.regionRetire index))

/-- HOLD_SET (R125). -/
def execHoldSet (arg : Byte) (s : State) : Host.Outcome State Fault Refusal :=
  .next (s.frameRow (.holdSet arg))

/-- HOLD_RELEASE (R130). -/
def execHoldRelease (arg : Byte) (s : State) : Host.Outcome State Fault Refusal :=
  .next (s.frameRow (.holdRelease arg))

/-- LOG_CLEAR (R166). -/
def execLogClear (arg : Byte) (s : State) : Host.Outcome State Fault Refusal :=
  .next (s.frameRow (.logClear arg))

/-- EVENT_ACK (R182). -/
def execEventAck (mask : BitVec 16) (s : State) : Host.Outcome State Fault Refusal :=
  .next (s.frameRow (.eventAck mask))

/-- COUNTERS_CLEAR (R184). -/
def execCountersClear (arg : Byte) (s : State) : Host.Outcome State Fault Refusal :=
  .next (s.frameRow (.countersClear arg))

/-- DATAPATH_RESET (R147). -/
def execDatapathReset (arg : Byte) (s : State) : Host.Outcome State Fault Refusal :=
  .next (s.frameRow (.datapathReset arg))

/-- LOG_POP (R164). -/
def execLogPop (s : State) : Host.Outcome State Fault Refusal :=
  .next (s.frameRow .logPop)

/-- LOG_PEEK (R165). -/
def execLogPeek (s : State) : Host.Outcome State Fault Refusal :=
  .next (s.frameRow .logPeek)

/-- PROBE (R178). -/
def execProbe (addr : Addr) (s : State) : Host.Outcome State Fault Refusal :=
  .next (s.frameRow (.probe addr))

/-- STATUS (R179). -/
def execStatus (s : State) : Host.Outcome State Fault Refusal :=
  .next (s.frameRow .status)

/-- CS_N_FALL (R169). -/
def execCsNFall (s : State) : Host.Outcome State Fault Refusal := .next s.csFall

/-- CS_N_RISE (R170). -/
def execCsNRise (s : State) : Host.Outcome State Fault Refusal := .next s.csRise

/-- SCLK_BYTE (R169). -/
def execSclkByte (mosi : Byte) (s : State) : Host.Outcome State Fault Refusal := .next (s.clockByte mosi)

end Sys2Proof.Machine
end

