-- ==== Sys2Proof/Machine/Ports.lean ====
section
/-! DEFINITION. The memory ports (chapters 6 and 8): UPSTREAM_REQUEST, RESPONSE_DELIVERED, ARBITER_GRANT,
DOWNSTREAM_REQUEST_TAKEN and DOWNSTREAM_RESPONSE, with the watch unit that judges each taken request
(chapter 9). -/

namespace Sys2Proof.Machine

/-! ### The watch unit (R156, R157) -/

/-- The watch matches the request (R156). -/
def Watch.matches (w : Watch) (kind : ReqKind) (a : Addr) : Bool :=
  w.enabled && decide (w.low.toNat ≤ a.toNat) && decide (a.toNat ≤ w.high.toNat) &&
  (match w.kinds, kind with
    | .both, _ => true
    | .read, .read => true
    | .write, .write => true
    | _, _ => false)

/-- The lowest-numbered watch that matches (R156). -/
def State.selectWatch (s : State) (kind : ReqKind) (a : Addr) : Option (Fin 4) :=
  ([0, 1, 2, 3] : List (Fin 4)).find? fun w => s.watches[w].matches kind a

/-- Set the decimation counter of a watch. -/
def State.setWatchCounter (s : State) (w : Fin 4) (n : Nat) : State :=
  { s with watches := s.watches.set w { s.watches[w] with counter := n } }

/-- The watch unit judges a taken request (R156, R157, R158). -/
def State.watchRequest (s : State) (tag : UTag) (kind : ReqKind) (a : Addr) (z : Size) (path : Path) : State :=
  match s.selectWatch kind a with
  | none => s
  | some w =>
    if s.watches[w].counter + 1 = s.watches[w].decimation then
      (s.setWatchCounter w 0).logRecord w s.now (.access a tag kind z path)
    else s.setWatchCounter w (s.watches[w].counter + 1)

/-! ### Taking an upstream request (R134 to R137) -/

/-- The U-port request channel is ready (R134). -/
def State.uReady (s : State) : Bool :=
  !s.inReset && s.stall.isNone && !s.quiescing && decide (s.places < 32)

/-- A request that fails the checks is answered ERR_PROTO (R136). The answer to a tag clash does not hold the
tag (R135). -/
def State.protocolError (s : State) (tag : UTag) (kind : ReqKind) (holdsTag : Bool) : State :=
  let r : Response := { tag := tag, status := .errProto, data := failData kind, holdsTag := holdsTag }
  ((({ s with responses := s.responses ++ [r] }).bump .protocolErrors 1).raise .protocol)

/-- A request joins the tail of the forward queue (R140). -/
def State.enqueue (s : State) (tag : UTag) (kind : ReqKind) (a : Addr) (z : Size) (d : Lanes) : State :=
  let r : FwdReq := { tag := tag, kind := kind, addr := a, size := z, data := d, mark := none }
  { s with forwardQueue := s.forwardQueue ++ [r] }

/-- A write enters the stall slot (R32). -/
def State.enterStall (s : State) (tag : UTag) (a : Addr) (z : Size) (d : Lanes) (r : RegionId)
    (cause : StallCause) : State :=
  { s with stall := some { tag := tag, addr := a, size := z, data := d, region := r, cause := cause,
                           elapsed := 0 } }

/-- The pool bytes that a read of the region copies: the snapshot mask and the snapshot bytes (R104, R105; a
region in RETIRE_DRAIN looks at SEALED entries alone, R112). -/
def State.snapshot (s : State) (r : Region) (a : Addr) (z : Size) : LaneMask × Lanes :=
  let dw := doubleword a
  let wanted := laneMask a z
  let sld := s.findEntry r.group .sealed dw
  let opn := if r.view = .staged ∧ r.state ≠ .retireDrain then s.findEntry r.group .opened dw else none
  let mo := (opn.elim 0 Entry.mask) &&& wanted
  let ms := (sld.elim 0 Entry.mask) &&& wanted
  (mo ||| ms, mergeLanes mo (opn.elim Lanes.zero Entry.data) (maskLanes ms (sld.elim Lanes.zero Entry.data)))

/-- What the classifier makes of a request: the state, the path it reports, and the group whose PRESSURE
request a failed allocation makes. -/
structure Routed where
  state : State
  path : Path
  pressure : Option GroupId

/-- A write that matches an active region (R7, R8, R27, R128). -/
def State.routeWrite (s : State) (tag : UTag) (a : Addr) (z : Size) (d : Lanes) (r : RegionId) : Routed :=
  let g := s.regions[r].group
  if s.held && s.groups[g].holdPolicy == .discard then
    { state := s.refuseWrite tag, path := .refused, pressure := none }
  else match s.regions[r].state with
    | .off => { state := s.enqueue tag .write a z d, path := .pass, pressure := none }
    | .retireDrain => { state := s.enterStall tag a z d r .retireDrain, path := .stalled, pressure := none }
    | .staging | .retireWait =>
      match s.offer g a z d with
      | some t => { state := t.respond tag .ok none, path := .staged, pressure := none }
      | none =>
        let p := if s.wantsPressure g then some g else none
        match s.regions[r].policy with
        | .stall => { state := s.enterStall tag a z d r .noEntry, path := .stalled, pressure := p }
        | .reject => { state := s.refuseWrite tag, path := .refused, pressure := p }

/-- A read that matches an active region (R9, R105, R106, R107). -/
def State.routeRead (s : State) (tag : UTag) (a : Addr) (z : Size) (r : RegionId) : Routed :=
  let snap := s.snapshot s.regions[r] a z
  if snap.1 = laneMask a z then
    { state := s.respond tag .ok (some snap.2), path := .localRead, pressure := none }
  else
    let rec_ : ReadRecord :=
      { addr := doubleword a, lanes := laneMask a z, snapMask := snap.1, snapData := snap.2, mark := none }
    { state := ({ s with tracker := s.tracker.set tag (some rec_) }).enqueue tag .read a z Lanes.zero,
      path := .forwarded, pressure := none }

/-- The checks and the lookup of a taken request (R135, R136, R137, R4). -/
def State.route (s : State) (tag : UTag) (kind : ReqKind) (a : Addr) (z : Size) (d : Lanes) : Routed :=
  if s.inFlight[tag] then
    { state := s.protocolError tag kind false, path := .refused, pressure := none }
  else
    let t := { s with inFlight := s.inFlight.set tag true }
    if !aligned a z then { state := t.protocolError tag kind true, path := .refused, pressure := none }
    else match t.lookup a with
      | none => { state := t.enqueue tag kind a z d, path := .pass, pressure := none }
      | some r => match kind with
        | .write => t.routeWrite tag a z d r
        | .read => t.routeRead tag a z r

/-- UPSTREAM_REQUEST (R134, R137). A request presented while the channel is not ready waits at the handshake and
nothing acts on it (log 6). The ACCESS record precedes what the taking causes (R158). -/
def execUpstreamRequest (tag : UTag) (kind : ReqKind) (a : Addr) (z : Size) (d : Lanes) (s : State) :
    Host.Outcome State Fault Refusal :=
  if s.uReady then
    let q := ({ s with places := s.places + 1 }).route tag kind a z d
    let t := q.state.watchRequest tag kind a z q.path
    .next (match q.pressure with
      | none => t
      | some g => t.pressureRequest g)
  else .next s

/-! ### Delivering a response (R139) -/

/-- RESPONSE_DELIVERED: the head of the response queue is delivered, its place is free, and its tag leaves
flight unless it is the answer to a tag clash (R135, R139, log 10). -/
def execResponseDelivered (s : State) : Host.Outcome State Fault Refusal :=
  if s.inReset then .next s
  else match s.responses with
    | [] => .next s
    | r :: rest =>
      .next { s with
        responses := rest
        places := s.places - 1
        inFlight := if r.holdsTag then s.inFlight.set r.tag false else s.inFlight }

/-! ### The downstream arbiter (R144) -/

/-- The lowest-numbered free drain tag (R91). -/
def State.freeDrainTag (s : State) : Option (Fin 4) :=
  ([0, 1, 2, 3] : List (Fin 4)).find? fun d => s.drainTags[d].isNone

/-- The drain write that the drain engine presents: its group, the tag it would take and its entry (R92). It
presents none while quiescing (R98). -/
def State.drainWrite (s : State) : Option (GroupId × Fin 4 × Entry) :=
  if s.quiescing then none
  else match s.ready with
    | [] => none
    | g :: _ => match s.groups[g].slot with
      | none => none
      | some sl =>
        if sl.phase = .draining ∧ s.nextIssue < sl.entries then
          match s.freeDrainTag, s.pool.find? (fun e => e.isOf g .sealed && decide (e.arrival = s.nextIssue)) with
          | some d, some e => some (g, d, e)
          | _, _ => none
        else none

/-- The downstream tag of a forwarded request: its upstream tag (R141). -/
def forwardTag (t : UTag) : DTag := ⟨t, by omega⟩

/-- The downstream tag 16..19 of a drain tag (R91). -/
def drainTag (d : Fin 4) : DTag := ⟨16 + d, by omega⟩

/-- The head of the forward queue is granted and issued (R140, R141). -/
def State.grantForward (s : State) (r : FwdReq) (rest : List FwdReq) : State :=
  let m := laneMask r.addr r.size
  let d := match r.kind with
    | .read => Lanes.zero
    | .write => maskLanes m r.data
  { s with
    forwardQueue := rest
    channel := some { tag := forwardTag r.tag, kind := r.kind, addr := doubleword r.addr, mask := m, data := d }
    outstanding := s.outstanding.set r.tag
      (some { kind := r.kind, addr := r.addr, size := r.size, mark := r.mark })
    lastGrant := .forward }

/-- The drain write is granted and issued (R91, R92). -/
def State.grantDrain (s : State) (g : GroupId) (d : Fin 4) (e : Entry) : State :=
  let f := fun x : Entry =>
    if x.isOf g .sealed && decide (x.arrival = s.nextIssue) then { x with issued := true } else x
  { s with
    pool := s.pool.map f
    channel := some { tag := drainTag d, kind := .write, addr := e.addr, mask := e.mask,
                      data := maskLanes e.mask e.data }
    drainTags := s.drainTags.set d (some { group := g, arrival := s.nextIssue })
    nextIssue := s.nextIssue + 1
    lastGrant := .drain }

/-- ARBITER_GRANT: while the channel is empty, the one requester that is ready, or of two the one that was not
granted last (R143, R144). -/
def execArbiterGrant (s : State) : Host.Outcome State Fault Refusal :=
  if s.inReset || s.channel.isSome then .next s
  else match s.forwardQueue, s.drainWrite with
    | [], none => .next s
    | r :: rest, none => .next (s.grantForward r rest)
    | [], some (g, d, e) => .next (s.grantDrain g d e)
    | r :: rest, some (g, d, e) =>
      if s.lastGrant = .drain then .next (s.grantForward r rest) else .next (s.grantDrain g d e)

/-- DOWNSTREAM_REQUEST_TAKEN: the channel is empty again (R143). -/
def execDownstreamRequestTaken (s : State) : Host.Outcome State Fault Refusal :=
  if s.inReset then .next s else .next { s with channel := none }

/-! ### Downstream responses (R146) -/

/-- A response whose tag is not outstanding is discarded, counted and flagged (R146). -/
def State.stray (s : State) : State := (s.bump .strayResponses 1).raise .protocol

/-- The response to a forwarded read (R109, R110). -/
def State.answerRead (s : State) (t : UTag) (q : ReadRecord) (status : MemStatus) (d : Lanes) : State :=
  let s1 := { s with outstanding := s.outstanding.set t none }
  let s2 := s1.lowerMark q.mark
  let s3 := { s2 with tracker := s2.tracker.set t none }
  match status with
  | .ok => s3.respond t .ok (some (maskLanes q.lanes (mergeLanes q.snapMask q.snapData d)))
  | .err => s3.respond t .errMem (some Lanes.zero)

/-- The response to a pass-through request (R138, R142). -/
def State.answerPass (s : State) (t : UTag) (o : OutReq) (status : MemStatus) (d : Lanes) : State :=
  let s1 := { s with outstanding := s.outstanding.set t none }
  let s2 := s1.lowerMark o.mark
  match status, o.kind with
  | .ok, .read => s2.respond t .ok (some (maskLanes (laneMask o.addr o.size) d))
  | .ok, .write => s2.respond t .ok none
  | .err, k => s2.respond t .errMem (failData k)

/-- The SEALED entry of a group with an arrival number. -/
def State.sealedAt (s : State) (b : DrainBinding) : Option Entry :=
  s.pool.find? fun e => e.isOf b.group .sealed && decide (e.arrival = b.arrival)

/-- The entry of an answered drain write is freed (R37). -/
def State.freeSealed (s : State) (b : DrainBinding) : State :=
  { s with pool := s.pool.filter fun e => !(e.isOf b.group .sealed && decide (e.arrival = b.arrival)) }

/-- The accounting of a drain fault, for the entry at the given address (R95). -/
def State.drainFaulted (s : State) (g : GroupId) (a : Addr) : State :=
  let gen := s.groups[g].slot.elim 0 SealedSlot.gen
  ((s.bump (.drainFaults g) 1).raise .drainFault).logRecord g s.now (.drainFault a gen)

/-- The generation of the group has had every drain write answered and completes now: not while quiescing (R96,
R98). -/
def State.drained (s : State) (g : GroupId) : Bool :=
  !s.quiescing && s.groups[g].slot.any fun sl =>
    decide (sl.phase = .draining) && decide (sl.written + sl.failed = sl.entries)

/-- The response to a drain write (R94, R95, R37, R96): tag, count, fault report, entry, retry, completion. -/
def State.answerDrain (s : State) (d : Fin 4) (b : DrainBinding) (status : MemStatus) : State :=
  let s1 := { s with drainTags := s.drainTags.set d none }
  let s2 := match status with
    | .ok => s1.modSlot b.group fun sl => { sl with written := sl.written + 1 }
    | .err => (s1.modSlot b.group fun sl => { sl with failed := sl.failed + 1 }).drainFaulted b.group
        ((s1.sealedAt b).elim 0 Entry.addr)
  let s3 := (s2.freeSealed b).retry
  if s3.drained b.group then s3.complete b.group else s3

/-- A response with an upstream tag (R146). -/
def State.answerForwarded (s : State) (t : UTag) (status : MemStatus) (d : Lanes) : State :=
  match s.outstanding[t] with
  | none => s.stray
  | some o => match s.tracker[t] with
    | some q => s.answerRead t q status d
    | none => s.answerPass t o status d

/-- A response with a drain tag (R146). -/
def State.answerDrainTag (s : State) (d : Fin 4) (status : MemStatus) : State :=
  match s.drainTags[d] with
  | none => s.stray
  | some b => s.answerDrain d b status

/-- DOWNSTREAM_RESPONSE (R146). While RST_N is asserted it is discarded and not counted (R151). -/
def execDownstreamResponse (tag : DTag) (status : MemStatus) (d : Lanes) (s : State) :
    Host.Outcome State Fault Refusal :=
  if s.inReset then .next s
  else if h : tag.val < 16 then .next (s.answerForwarded ⟨tag.val, h⟩ status d)
  else .next (s.answerDrainTag ⟨tag.val - 16, by omega⟩ status)

end Sys2Proof.Machine
end

