-- ==== Sys2Proof/Machine/Dispatch.lean ====
section
/-! DEFINITION. The effect of each command on everything but the queue of commands. -/

namespace Sys2Proof.Machine

def exec (i : Instr) (s : State) : Host.Outcome State Fault Refusal :=
  match i with
  | .upstreamRequest tag kind addr size data => Sys2Proof.Machine.execUpstreamRequest tag kind addr size data s
  | .responseDelivered => Sys2Proof.Machine.execResponseDelivered s
  | .arbiterGrant => Sys2Proof.Machine.execArbiterGrant s
  | .downstreamRequestTaken => Sys2Proof.Machine.execDownstreamRequestTaken s
  | .downstreamResponse tag status data => Sys2Proof.Machine.execDownstreamResponse tag status data s
  | .tick => Sys2Proof.Machine.execTick s
  | .limit => Sys2Proof.Machine.execLimit s
  | .zero => Sys2Proof.Machine.execZero s
  | .peak => Sys2Proof.Machine.execPeak s
  | .markUp => Sys2Proof.Machine.execMarkUp s
  | .markDown => Sys2Proof.Machine.execMarkDown s
  | .stallTimeout => Sys2Proof.Machine.execStallTimeout s
  | .syncArrival => Sys2Proof.Machine.execSyncArrival s
  | .hldNAsserted => Sys2Proof.Machine.execHldNAsserted s
  | .hldNDeasserted => Sys2Proof.Machine.execHldNDeasserted s
  | .filterComplete => Sys2Proof.Machine.execFilterComplete s
  | .hardwareReset => Sys2Proof.Machine.execHardwareReset s
  | .resetEnd => Sys2Proof.Machine.execResetEnd s
  | .csNRise => Sys2Proof.Machine.execCsNRise s
  | .nakFrame bad => Sys2Proof.Machine.execNakFrame bad s
  | .regRead reg => Sys2Proof.Machine.execRegRead reg s
  | .regWrite reg value => Sys2Proof.Machine.execRegWrite reg value s
  | .writeTimerMode value => Sys2Proof.Machine.execWriteTimerMode value s
  | .writePrescale value => Sys2Proof.Machine.execWritePrescale value s
  | .writePeriodLimit value => Sys2Proof.Machine.execWritePeriodLimit value s
  | .writeMark value => Sys2Proof.Machine.execWriteMark value s
  | .writeSyncMode value => Sys2Proof.Machine.execWriteSyncMode value s
  | .writeHoldFilter value => Sys2Proof.Machine.execWriteHoldFilter value s
  | .writeStallLimit value => Sys2Proof.Machine.execWriteStallLimit value s
  | .writeLogKinds value => Sys2Proof.Machine.execWriteLogKinds value s
  | .writeLogWatermark value => Sys2Proof.Machine.execWriteLogWatermark value s
  | .writeEventEnable value => Sys2Proof.Machine.execWriteEventEnable value s
  | .recordReadRegion index => Sys2Proof.Machine.execRecordReadRegion index s
  | .recordWriteRegion index fields => Sys2Proof.Machine.execRecordWriteRegion index fields s
  | .recordReadGroup index => Sys2Proof.Machine.execRecordReadGroup index s
  | .recordWriteGroup index fields => Sys2Proof.Machine.execRecordWriteGroup index fields s
  | .recordReadWatch index => Sys2Proof.Machine.execRecordReadWatch index s
  | .recordWriteWatch index fields => Sys2Proof.Machine.execRecordWriteWatch index fields s
  | .timerStart arg => Sys2Proof.Machine.execTimerStart arg s
  | .timerStop arg => Sys2Proof.Machine.execTimerStop arg s
  | .timerRestart arg => Sys2Proof.Machine.execTimerRestart arg s
  | .publish mask => Sys2Proof.Machine.execPublish mask s
  | .discard mask => Sys2Proof.Machine.execDiscard mask s
  | .regionEnable index => Sys2Proof.Machine.execRegionEnable index s
  | .regionRetire index => Sys2Proof.Machine.execRegionRetire index s
  | .holdSet arg => Sys2Proof.Machine.execHoldSet arg s
  | .holdRelease arg => Sys2Proof.Machine.execHoldRelease arg s
  | .logClear arg => Sys2Proof.Machine.execLogClear arg s
  | .eventAck mask => Sys2Proof.Machine.execEventAck mask s
  | .countersClear arg => Sys2Proof.Machine.execCountersClear arg s
  | .datapathReset arg => Sys2Proof.Machine.execDatapathReset arg s
  | .quiesceEnd => Sys2Proof.Machine.execQuiesceEnd s
  | .logPop => Sys2Proof.Machine.execLogPop s
  | .logPeek => Sys2Proof.Machine.execLogPeek s
  | .probe addr => Sys2Proof.Machine.execProbe addr s
  | .status => Sys2Proof.Machine.execStatus s
  | .csNFall => Sys2Proof.Machine.execCsNFall s
  | .sclkByte mosi => Sys2Proof.Machine.execSclkByte mosi s

end Sys2Proof.Machine
end

