-- ==== Sys2Proof/Safety.lean ====
section
/-! DEFINITION. What counts as a safe state and a safe run: the bounds that the spec states for every state of the
part, one proposition for each block. And the path of a taken request and what a seal leaves behind, in the terms that
claims use. -/

namespace Sys2Proof.Machine

/-- The pool holds at most 64 entries, and each group at most its quota of OPEN ones (R23). -/
def State.PoolBounded (s : State) : Prop :=
  s.poolUsed ≤ 64 ∧ ∀ g : GroupId, s.openCount g ≤ s.groups[g].quota

/-- The OPEN entries of a group carry the arrival numbers 0, 1, … up to the open entry count less one, each once
(R22); the model's list keeps them in that order. -/
def State.ArrivalsInOrder (s : State) : Prop :=
  ∀ g : GroupId,
    (s.pool.filter fun e => e.isOf g .opened).map Entry.arrival = List.range (s.openCount g)

/-- No two OPEN entries of a group hold the same doubleword (R24). -/
def State.OneOpenEntry (s : State) : Prop :=
  ∀ g : GroupId, ((s.pool.filter fun e => e.isOf g .opened).map Entry.addr).Nodup

/-- No two active regions overlap in address (R11). -/
def State.WindowsApart (s : State) : Prop :=
  ∀ r q : RegionId, r ≠ q → s.regions[r].active = true → s.regions[q].active = true →
    s.regions[r].overlaps s.regions[q] = false

/-- The divider count of a group is below its divider (R70). -/
def State.DividersBelow (s : State) : Prop :=
  ∀ g : GroupId, s.groups[g].dividerCount < s.groups[g].divider

/-- The limits are at least 1 and the period count never exceeds the active limit (R51, R52). A running count that
goes up in mode UPDOWN or ONESHOT is below the limit, since the arrival there turns or stops it (R54, R55), and in
the modes UP and ONESHOT a running count goes up (R53, R55). -/
structure Timebase.Bounded (t : Timebase) : Prop where
  limitPos : 1 ≤ t.limit
  shadowPos : 1 ≤ t.limitShadow
  count : t.count ≤ t.limit
  climbing : t.running = true → t.dir = .up → t.mode ≠ .up → t.count < t.limit
  upward : t.running = true → t.mode ≠ .updown → t.dir = .up

/-- The log never holds more than 32 records (R159). -/
def State.LogBounded (s : State) : Prop := s.log.records.length ≤ 32

/-- Every counter is a 16-bit quantity (R183). -/
def State.CountersBounded (s : State) : Prop := ∀ c : Fin 26, s.events.counters[c] ≤ counterMax

/-- At most 32 places of the response queue are reserved (R139). -/
def State.PlacesBounded (s : State) : Prop := s.places ≤ 32

/-- In reset the hold unit is CLEAR (R120). Out of reset it is CLEAR only with the line deasserted and FILTERING
only with it asserted (R122, R123, R124). -/
structure State.LineFollowed (s : State) : Prop where
  resetting : s.inReset = true → s.hold.state = .clear
  clear : s.inReset = false → s.hold.state = .clear → s.hldLow = false
  filtering : s.inReset = false → s.hold.state = .filtering → s.hldLow = true

/-- Everything above. -/
structure State.Sound (s : State) : Prop where
  pool : s.PoolBounded
  arrivals : s.ArrivalsInOrder
  entries : s.OneOpenEntry
  windows : s.WindowsApart
  dividers : s.DividersBelow
  timebase : s.timebase.Bounded
  log : s.LogBounded
  counters : s.CountersBounded
  places : s.PlacesBounded
  line : s.LineFollowed

/-- A safe run of k steps: none of them stops the part, and the state after each is sound. -/
def SafeRun : Nat → State → Prop
  | 0, s => s.Sound
  | k + 1, s => s.Sound ∧ ∃ t, step s = .next t ∧ SafeRun k t

/-! ### The path of a request (Table 8-2, Table 9-2) -/

/-- The path that a request is reported with when it is taken in s, row by row of Table 8-2. -/
inductive PathTaken (s : State) (tag : UTag) (a : Addr) (z : Size) : ReqKind → Path → Prop
  /-- Its tag is in flight (R136). -/
  | clash {k : ReqKind} : s.inFlight[tag] = true → PathTaken s tag a z k .refused
  /-- Its address is no multiple of its size (R136). -/
  | misaligned {k : ReqKind} : s.inFlight[tag] = false → a.toNat % Size.bytes z ≠ 0 → PathTaken s tag a z k .refused
  /-- It matches no active region (R6). -/
  | pass {k : ReqKind} : s.inFlight[tag] = false → a.toNat % Size.bytes z = 0 →
      (∀ r : RegionId, s.regions[r].state ≠ .off → s.regions[r].contains a = false) → PathTaken s tag a z k .pass
  /-- A READ that its snapshot covers (R106). -/
  | localRead (r : RegionId) : s.inFlight[tag] = false → a.toNat % Size.bytes z = 0 → s.lookup a = some r →
      (s.snapshot s.regions[r] a z).1 = laneMask a z → PathTaken s tag a z .read .localRead
  /-- A READ that its snapshot does not cover (R107). -/
  | forwarded (r : RegionId) : s.inFlight[tag] = false → a.toNat % Size.bytes z = 0 → s.lookup a = some r →
      (s.snapshot s.regions[r] a z).1 ≠ laneMask a z → PathTaken s tag a z .read .forwarded
  /-- A WRITE of a DISCARD group under a hold (R128). -/
  | held (r : RegionId) : s.inFlight[tag] = false → a.toNat % Size.bytes z = 0 → s.lookup a = some r →
      s.hold.state = .held → s.groups[s.regions[r].group].holdPolicy = .discard → PathTaken s tag a z .write .refused
  /-- A WRITE to a region in RETIRE_DRAIN (R8). -/
  | retiring (r : RegionId) : s.inFlight[tag] = false → a.toNat % Size.bytes z = 0 → s.lookup a = some r →
      s.hold.state ≠ .held ∨ s.groups[s.regions[r].group].holdPolicy = .freeze →
      s.regions[r].state = .retireDrain → PathTaken s tag a z .write .stalled
  /-- A WRITE that merges or allocates (R25, R26). -/
  | staged (r : RegionId) : s.inFlight[tag] = false → a.toNat % Size.bytes z = 0 → s.lookup a = some r →
      s.hold.state ≠ .held ∨ s.groups[s.regions[r].group].holdPolicy = .freeze →
      s.regions[r].state = .staging ∨ s.regions[r].state = .retireWait →
      s.findEntry s.regions[r].group .opened (doubleword a) ≠ none ∨
        (s.pool.length < 64 ∧ s.openCount s.regions[r].group < s.groups[s.regions[r].group].quota) →
      PathTaken s tag a z .write .staged
  /-- A WRITE that fails to allocate, by the full policy of its region (R27). -/
  | full (r : RegionId) : s.inFlight[tag] = false → a.toNat % Size.bytes z = 0 → s.lookup a = some r →
      s.hold.state ≠ .held ∨ s.groups[s.regions[r].group].holdPolicy = .freeze →
      s.regions[r].state = .staging ∨ s.regions[r].state = .retireWait →
      s.findEntry s.regions[r].group .opened (doubleword a) = none →
      64 ≤ s.pool.length ∨ s.groups[s.regions[r].group].quota ≤ s.openCount s.regions[r].group →
      PathTaken s tag a z .write (match s.regions[r].policy with | .stall => .stalled | .reject => .refused)

/-- The taking of the request in s makes a PRESSURE request of the group, and that seals (R29, R75). -/
structure PressureSeals (s : State) (tag : UTag) (a : Addr) (z : Size) (kind : ReqKind) (g : GroupId) : Prop where
  write : kind = .write
  fresh : s.inFlight[tag] = false
  aligned : a.toNat % Size.bytes z = 0
  region : ∃ r : RegionId, s.lookup a = some r ∧ s.regions[r].group = g ∧
    (s.regions[r].state = .staging ∨ s.regions[r].state = .retireWait)
  missing : s.findEntry g .opened (doubleword a) = none
  full : 64 ≤ s.pool.length ∨ s.groups[g].quota ≤ s.openCount g
  enabled : s.groups[g].pressureSeal = true
  entries : 0 < s.openCount g
  notHeld : s.hold.state ≠ .held
  slot : s.groups[g].slot = none

/-! ### What a seal leaves (R81) -/

/-- How many requests the fence set of a seal of the group taken now has (R86). -/
def State.fenceMembers (s : State) (g : GroupId) : Nat := allTags.countP fun t => s.inFence g t

/-- The head of the queue q is READY in s, so that the drain engine makes it DRAINING (R90). With no quiesce under way
the head of the ready queue is DRAINING already in every state that a run reaches. -/
def State.headReady (s : State) (q : List GroupId) : Bool := q.head?.any fun h => decide (s.phase h = some .ready)

/-- A group of s once the head of the queue q drains (R90): its slot DRAINING if it is that head and READY, and as it
was otherwise. -/
def State.withHeadDraining (s : State) (q : List GroupId) (h : GroupId) : Group :=
  if q.head? = some h ∧ s.phase h = some .ready then
    { s.groups[h] with slot := s.groups[h].slot.map fun sl => { sl with phase := .draining } }
  else s.groups[h]

/-- The new sealed slot of a seal of the group from s (R81 steps 1, 5 and 7): the open generation's number and entry
count, nothing answered, and FENCED behind a fence set that has members; with none, READY behind another generation
and DRAINING in an empty ready queue. -/
structure SlotOfSeal (s : State) (g : GroupId) (sl : SealedSlot) : Prop where
  gen : sl.gen = s.groups[g].openGen
  entries : sl.entries = s.openCount g
  fence : sl.fence = s.fenceMembers g
  written : sl.written = 0
  failed : sl.failed = 0
  elapsed : sl.elapsed = 0
  fenced : 0 < s.fenceMembers g → sl.phase = .fenced
  draining : s.fenceMembers g = 0 → s.ready = [] → sl.phase = .draining
  ready : ∀ h : GroupId, s.fenceMembers g = 0 → s.ready.head? = some h → h ≠ g → sl.phase = .ready

/-- What a seal of a group with OPEN entries leaves of s, but for the pool (R81 steps 1 to 7): the slot, the generation
number, the divider count, 0 at a MANUAL seal and as it was otherwise (R69, R74, R75, R76), the rest of the group's
record and the other groups as they were, the retiring regions, the marks on the members of the fence set, the place in
the ready queue, the next-issue number, 0 where the generation drains at once and as it was otherwise (R90, R92),
SEALS(g) and the SEAL record with the request's cause and timestamp. -/
structure SealLeaves (s t : State) (g : GroupId) (cause : SealCause) (ts : Stamp) : Prop where
  slot : ∃ sl, t.groups[g].slot = some sl ∧ SlotOfSeal s g sl
  group : t.groups[g] =
    { s.groups[g] with
      slot := t.groups[g].slot
      openGen := s.groups[g].openGen + 1
      dividerCount := if cause = .manual then 0 else s.groups[g].dividerCount
      pendingRetire := cause != .retire && s.groups[g].pendingRetire }
  others : ∀ h : GroupId, h ≠ g → t.groups[h] =
    if s.fenceMembers g = 0 then s.withHeadDraining s.ready h else s.groups[h]
  regions : ∀ r : RegionId, t.regions[r] =
    if s.regions[r].group = g ∧ s.regions[r].state = .retireWait then { s.regions[r] with state := .retireDrain }
    else s.regions[r]
  forwardQueue : t.forwardQueue = s.forwardQueue.map fun q =>
    if s.inFence g q.tag = true ∧ s.tracker[q.tag] = none then { q with mark := some g } else q
  outstanding : ∀ x : UTag, t.outstanding[x] =
    if s.inFence g x = true ∧ s.tracker[x] = none then s.outstanding[x].map fun o => { o with mark := some g }
    else s.outstanding[x]
  tracker : ∀ x : UTag, t.tracker[x] =
    if s.inFence g x = true then s.tracker[x].map fun q => { q with mark := some g } else s.tracker[x]
  ready : t.ready = if s.fenceMembers g = 0 then s.ready ++ [g] else s.ready
  nextIssue : t.nextIssue =
    if t.phase g = some .draining ∨ (s.fenceMembers g = 0 ∧ s.headReady s.ready = true) then 0 else s.nextIssue
  seals : t.counter (.seals g) = satAdd (s.counter (.seals g)) 1
  log : t.log =
    (s.logRecord g ts (.sealed s.groups[g].openGen (s.openCount g) cause (s.fenceMembers g))).log
  hold : t.hold = s.hold
  channel : t.channel = s.channel
  lastGrant : t.lastGrant = s.lastGrant
  drainTags : t.drainTags = s.drainTags

/-- What a seal of a group with no OPEN entry leaves of s, with no pending retire seal to follow it (R81, R83): the
generation is complete at once, its number spent, the divider count 0 at a MANUAL seal and as it was otherwise (R69, R74,
R76), the rest of the group's record, the other groups and the next-issue number as they were, the retiring regions OFF,
and a SEAL and a DRAIN_DONE record of zero entries stand in the log. No fence is taken and nothing drains. -/
structure EmptySealLeaves (s t : State) (g : GroupId) (cause : SealCause) (ts : Stamp) : Prop where
  group : t.groups[g] =
    { s.groups[g] with
      slot := none
      openGen := s.groups[g].openGen + 1
      dividerCount := if cause = .manual then 0 else s.groups[g].dividerCount
      pendingRetire := false }
  others : ∀ h : GroupId, h ≠ g → t.groups[h] = s.withHeadDraining t.ready h
  pool : t.pool = s.pool
  regions : ∀ r : RegionId, t.regions[r] =
    if s.regions[r].group = g ∧ (s.regions[r].state = .retireWait ∨ s.regions[r].state = .retireDrain) then
      { s.regions[r] with state := .off }
    else s.regions[r]
  forwardQueue : t.forwardQueue = s.forwardQueue
  outstanding : t.outstanding = s.outstanding
  tracker : t.tracker = s.tracker
  ready : t.ready = s.ready.filter fun h => h ≠ g
  nextIssue : t.nextIssue = if s.headReady t.ready = true then 0 else s.nextIssue
  seals : t.counter (.seals g) = satAdd (s.counter (.seals g)) 1
  done : t.flagSet (.done g) = true
  log : t.log = ((s.logRecord g ts (.sealed s.groups[g].openGen 0 cause 0)).logRecord g t.now
    (.drainDone s.groups[g].openGen 0 0 false 0)).log
  hold : t.hold = s.hold
  channel : t.channel = s.channel
  lastGrant : t.lastGrant = s.lastGrant
  drainTags : t.drainTags = s.drainTags

end Sys2Proof.Machine
end

