-- ==== Sys2Proof/WellFormed.lean ====
section
/-! DEFINITION. Which commands a sender can send. The operand types already bound tags, sizes and field
widths; what is left is that a READ carries no data (Table 8-1) and that the bytes of a NAK_FRAME name
nothing (R170, Tables 10-5 and 10-6). -/

namespace Sys2Proof

/-- The kind bytes of Table 10-5: 0x11 to 0x19. -/
def namesKind (k : Byte) : Bool := 0x11 ≤ k.toNat && k.toNat ≤ 0x19

/-- The record classes: 0x01 REGION, 0x02 GROUP, 0x03 WATCH. -/
def namesClass (c : Byte) : Bool := 0x01 ≤ c.toNat && c.toNat ≤ 0x03

/-- The action codes: 0x01 TIMER_START to 0x0D DATAPATH_RESET. -/
def namesAction (c : Byte) : Bool := 0x01 ≤ c.toNat && c.toNat ≤ 0x0D

/-- The bytes name nothing, so the part takes the frame as NAK_FRAME (R170). -/
def BadRequest.wellFormed : BadRequest → Bool
  | .kind k => !namesKind k
  | .readClass c => !namesClass c
  | .writeClass c => !namesClass c
  | .actionCode c => !namesAction c

/-- A command that a sender can send. -/
def Instr.wellFormed : Instr → Bool
  | .upstreamRequest _ .read _ _ data => data == Lanes.zero
  | .nakFrame bad => bad.wellFormed
  | _ => true

end Sys2Proof
end

