-- ==== Sys2Proof/Certificates/Slice0/Obligations.lean ====
section
/-! DEFINITION. The statements for the provers. -/

section

open Sys2Proof Sys2Proof.Machine

/-! ### The queue -/

/-- A step takes the command at the front of the queue, and idles on an empty queue (the model's choice, logs 4
and 5); every command answers a next state: none stops the part. -/
def Obligations.FrontCommandIsTaken : Prop :=
  (∀ (c : Instr) (rest : List Instr) (s : State), s.pending = c :: rest →
    step s = exec c { s with pending := rest }) ∧
  (∀ s : State, s.pending = [] → step s = .next s) ∧
  (∀ (c : Instr) (s : State), ∃ t, exec c s = .next t)

/-- No command touches the queue of commands. -/
def Obligations.CommandsKeepTheQueue : Prop :=
  ∀ (c : Instr) (s t : State), exec c s = .next t → t.pending = s.pending

/-- While RST_N is asserted the lines are followed and nothing else is taken (the model's reading of R48, R49, R124,
R151 and R171; log 23). -/
def Obligations.ResetSilencesCommands : Prop :=
  ∀ (c : Instr) (s : State), s.inReset = true →
    (c ∉ ([.hldNAsserted, .hldNDeasserted, .csNFall, .csNRise, .hardwareReset, .resetEnd] : List Instr) →
      exec c s = .next s) ∧
    exec .hldNAsserted s = .next { s with hldLow := true } ∧
    exec .hldNDeasserted s = .next { s with hldLow := false } ∧
    exec .csNFall s = .next { s with csLow := true } ∧
    exec .csNRise s = .next { s with csLow := false }

/-! ### Upstream requests -/

/-- A request is taken only when the stall slot is EMPTY, nothing is quiescing, a response place is free and RST_N is
deasserted (R134); one that is taken is refused for a tag clash, or else for misalignment (R136). No watch is
selected here. -/
def Obligations.RequestsWaitOrAreRefused : Prop :=
  ∀ (s : State) (tag : UTag) (kind : ReqKind) (a : Addr) (z : Size) (d : Lanes),
    (s.stall ≠ none ∨ s.quiescing = true ∨ 32 ≤ s.places ∨ s.inReset = true →
      exec (.upstreamRequest tag kind a z d) s = .next s) ∧
    (s.stall = none → s.quiescing = false → s.places < 32 → s.inReset = false → s.selectWatch kind a = none →
      (s.inFlight[tag] = true →
        exec (.upstreamRequest tag kind a z d) s = .next
          ((({ s with
              places := s.places + 1
              responses := s.responses ++
                [{ tag := tag, status := .errProto, data := failData kind, holdsTag := false }] } :
            State).bump .protocolErrors 1).raise .protocol)) ∧
      (s.inFlight[tag] = false → a.toNat % Size.bytes z ≠ 0 →
        exec (.upstreamRequest tag kind a z d) s = .next
          ((({ s with
              places := s.places + 1
              inFlight := s.inFlight.set tag true
              responses := s.responses ++
                [{ tag := tag, status := .errProto, data := failData kind, holdsTag := true }] } :
            State).bump .protocolErrors 1).raise .protocol)))

/-- A request that passes the checks and lies in no active window joins the tail of the forward queue, and nothing
else changes but its place and its tag (R6, R9, R135, R139, R140). No watch is selected here. A window holds the
addresses from its base on, 2 to the power of its size code of them, and with the active windows apart the lookup
finds the one that holds an address (R4, R11). -/
def Obligations.UnmatchedRequestsPassThrough : Prop :=
  (∀ (q : Region) (a : Addr),
    q.contains a = true ↔ q.base.toNat ≤ a.toNat ∧ a.toNat < q.base.toNat + 2 ^ q.sizeCode) ∧
  (∀ (s : State) (a : Addr) (r : RegionId), s.WindowsApart →
    (s.lookup a = some r ↔ s.regions[r].state ≠ .off ∧ s.regions[r].contains a = true)) ∧
  ∀ (s : State) (tag : UTag) (kind : ReqKind) (a : Addr) (z : Size) (d : Lanes),
    s.stall = none → s.quiescing = false → s.places < 32 → s.inReset = false → s.selectWatch kind a = none →
    s.inFlight[tag] = false → a.toNat % Size.bytes z = 0 →
    (∀ r : RegionId, s.regions[r].state ≠ .off → s.regions[r].contains a = false) →
    exec (.upstreamRequest tag kind a z d) s = .next
      { s with
        places := s.places + 1
        inFlight := s.inFlight.set tag true
        forwardQueue := s.forwardQueue ++
          [{ tag := tag, kind := kind, addr := a, size := z, data := d, mark := none }] }

/-- A staged write merges into the group's OPEN entry for its doubleword, even in a full pool, or allocates one; it is
answered OK at once and nothing else changes (R7, R24, R25, R26, R46). The entry is one of the group and of the OPEN
role that holds the doubleword, and the open entry count is the number of the group's OPEN entries (R22, R24). Lanes of
a new entry outside its mask are 0 (the model's choice, log 11). No watch is selected here. -/
def Obligations.StagedWritesMergeOrAllocate : Prop :=
  (∀ (s : State) (g : GroupId) (o : Role) (a : Addr),
    (s.findEntry g o a = none ↔ ∀ e ∈ s.pool, ¬(e.group = g ∧ e.role = o ∧ e.addr = a)) ∧
    (∀ e : Entry, s.findEntry g o a = some e → e ∈ s.pool ∧ e.group = g ∧ e.role = o ∧ e.addr = a) ∧
    s.openCount g = (s.pool.filter fun e => decide (e.group = g ∧ e.role = .opened)).length) ∧
  ∀ (s : State) (tag : UTag) (a : Addr) (z : Size) (d : Lanes) (r : RegionId) (g : GroupId),
    s.stall = none → s.quiescing = false → s.places < 32 → s.inReset = false → s.selectWatch .write a = none →
    s.inFlight[tag] = false → a.toNat % Size.bytes z = 0 → s.lookup a = some r → s.regions[r].group = g →
    s.regions[r].state = .staging ∨ s.regions[r].state = .retireWait →
    s.hold.state ≠ .held ∨ s.groups[g].holdPolicy = .freeze →
    ((∃ e, s.findEntry g .opened (doubleword a) = some e) →
      exec (.upstreamRequest tag .write a z d) s = .next
        { s with
          places := s.places + 1
          inFlight := s.inFlight.set tag true
          pool := s.pool.map fun e =>
            if e.group = g ∧ e.role = .opened ∧ e.addr = doubleword a then e.merge (laneMask a z) d else e
          responses := s.responses ++ [{ tag := tag, status := .ok, data := none, holdsTag := true }] }) ∧
    (s.findEntry g .opened (doubleword a) = none → s.pool.length < 64 → s.openCount g < s.groups[g].quota →
      exec (.upstreamRequest tag .write a z d) s = .next
        { s with
          places := s.places + 1
          inFlight := s.inFlight.set tag true
          pool := s.pool ++
            [{ addr := doubleword a, data := maskLanes (laneMask a z) d, mask := laneMask a z, group := g,
               role := .opened, arrival := s.openCount g, issued := false }]
          responses := s.responses ++ [{ tag := tag, status := .ok, data := none, holdsTag := true }] })

/-- A staged write that finds no entry waits in the stall slot under STALL and is answered ERR_STAGE under REJECT (R27,
R28, R32); with the part HELD, a write of a DISCARD group is refused in every active region (R128), and any other
write to a RETIRE_DRAIN region waits (R8). Here the group makes no PRESSURE request, and no watch is selected. -/
def Obligations.WritesThatAreNotStaged : Prop :=
  ∀ (s : State) (tag : UTag) (a : Addr) (z : Size) (d : Lanes) (r : RegionId) (g : GroupId),
    s.stall = none → s.quiescing = false → s.places < 32 → s.inReset = false → s.selectWatch .write a = none →
    s.inFlight[tag] = false → a.toNat % Size.bytes z = 0 → s.lookup a = some r → s.regions[r].group = g →
    (s.hold.state = .held → s.groups[g].holdPolicy = .discard →
      exec (.upstreamRequest tag .write a z d) s = .next
        ((({ s with
            places := s.places + 1
            inFlight := s.inFlight.set tag true
            responses := s.responses ++ [{ tag := tag, status := .errStage, data := none, holdsTag := true }] } :
            State).bump .refusedWrites 1).raise .refused)) ∧
    (s.hold.state ≠ .held ∨ s.groups[g].holdPolicy = .freeze →
      (s.regions[r].state = .retireDrain →
        exec (.upstreamRequest tag .write a z d) s = .next
          { s with
            places := s.places + 1
            inFlight := s.inFlight.set tag true
            stall := some { tag := tag, addr := a, size := z, data := d, region := r, cause := .retireDrain,
                            elapsed := 0 } }) ∧
      (s.regions[r].state = .staging ∨ s.regions[r].state = .retireWait →
        s.findEntry g .opened (doubleword a) = none →
        64 ≤ s.pool.length ∨ s.groups[g].quota ≤ s.openCount g →
        s.groups[g].pressureSeal = false ∨ s.openCount g = 0 →
        (s.regions[r].policy = .stall →
          exec (.upstreamRequest tag .write a z d) s = .next
            { s with
              places := s.places + 1
              inFlight := s.inFlight.set tag true
              stall := some { tag := tag, addr := a, size := z, data := d, region := r, cause := .noEntry,
                              elapsed := 0 } }) ∧
        (s.regions[r].policy = .reject →
          exec (.upstreamRequest tag .write a z d) s = .next
            ((({ s with
                places := s.places + 1
                inFlight := s.inFlight.set tag true
                responses := s.responses ++
                  [{ tag := tag, status := .errStage, data := none, holdsTag := true }] } :
            State).bump .refusedWrites 1).raise .refused))))

/-- A write that finds no entry, at its first taking and with pressure sealing on and entries to publish, makes a
PRESSURE request after its own disposal (R27, R29). With the sealed slot occupied or the part HELD the request leaves
nothing behind (R72, R75): the write waits in the stall slot under STALL and is refused under REJECT. Otherwise the
group seals, with the slot, the fence, the place in the ready queue and the SEAL record of a PRESSURE seal (R81, R84,
R86 to R90). Under REJECT the write is refused all the same; under STALL it is offered again, and is staged into the
next generation, waits on in a full pool, or waits for the seal's own RETIRE_DRAIN where its region is retiring (R8,
R13, R33). Lanes of the new entry outside its mask are 0 (the model's choice, log 11). No watch is selected here. -/
def Obligations.PressureSealsTheFullGroup : Prop :=
  ∀ (s : State) (tag : UTag) (a : Addr) (z : Size) (d : Lanes) (r : RegionId) (g : GroupId),
    s.stall = none → s.quiescing = false → s.places < 32 → s.inReset = false → s.selectWatch .write a = none →
    s.inFlight[tag] = false → a.toNat % Size.bytes z = 0 → s.lookup a = some r → s.regions[r].group = g →
    s.regions[r].state = .staging ∨ s.regions[r].state = .retireWait →
    s.hold.state ≠ .held ∨ s.groups[g].holdPolicy = .freeze →
    s.findEntry g .opened (doubleword a) = none → 64 ≤ s.pool.length ∨ s.groups[g].quota ≤ s.openCount g →
    s.groups[g].pressureSeal = true → 0 < s.openCount g →
    (s.hold.state = .held ∨ s.groups[g].slot ≠ none →
      (s.regions[r].policy = .stall →
        exec (.upstreamRequest tag .write a z d) s = .next
          { s with
            places := s.places + 1
            inFlight := s.inFlight.set tag true
            stall := some { tag := tag, addr := a, size := z, data := d, region := r, cause := .noEntry,
                            elapsed := 0 } }) ∧
      (s.regions[r].policy = .reject →
        exec (.upstreamRequest tag .write a z d) s = .next
          ((({ s with
              places := s.places + 1
              inFlight := s.inFlight.set tag true
              responses := s.responses ++
                [{ tag := tag, status := .errStage, data := none, holdsTag := true }] } :
            State).bump .refusedWrites 1).raise .refused))) ∧
    (s.hold.state ≠ .held → s.groups[g].slot = none →
      ∃ t : State, exec (.upstreamRequest tag .write a z d) s = .next t ∧ SealLeaves s t g .pressure s.now ∧
        t.places = s.places + 1 ∧ t.inFlight = s.inFlight.set tag true ∧ t.timebase = s.timebase ∧ t.hold = s.hold ∧
        t.watches = s.watches ∧ t.channel = s.channel ∧ t.drainTags = s.drainTags ∧ t.port = s.port ∧
        (∀ sealed : List Entry,
          sealed = (s.pool.map fun e =>
            if e.group = g ∧ e.role = .opened then { e with role := .sealed, issued := false } else e) →
          (s.regions[r].policy = .reject →
            t.stall = none ∧ t.pool = sealed ∧
            t.responses = s.responses ++ [{ tag := tag, status := .errStage, data := none, holdsTag := true }] ∧
            t.counter .refusedWrites = satAdd (s.counter .refusedWrites) 1 ∧ t.flagSet .refused = true) ∧
          (s.regions[r].policy = .stall →
            t.counter .refusedWrites = s.counter .refusedWrites ∧
            (s.regions[r].state = .retireWait →
              t.pool = sealed ∧ t.responses = s.responses ∧
              t.stall = some { tag := tag, addr := a, size := z, data := d, region := r, cause := .retireDrain,
                               elapsed := 0 }) ∧
            (s.regions[r].state = .staging → 64 ≤ s.pool.length →
              t.pool = sealed ∧ t.responses = s.responses ∧
              t.stall = some { tag := tag, addr := a, size := z, data := d, region := r, cause := .noEntry,
                               elapsed := 0 }) ∧
            (s.regions[r].state = .staging → s.pool.length < 64 → 1 ≤ s.groups[g].quota →
              t.stall = none ∧
              t.responses = s.responses ++ [{ tag := tag, status := .ok, data := none, holdsTag := true }] ∧
              t.pool = sealed ++
                [{ addr := doubleword a, data := maskLanes (laneMask a z) d, mask := laneMask a z, group := g,
                   role := .opened, arrival := 0, issued := false }]))))

/-- A read of an active region is answered at once from its snapshot when that covers every requested lane, and
otherwise takes a read tracker record and joins the forward queue; nothing else changes (R9, R105, R106, R107). The
queued READ has no data, which the model keeps as 0 (the model's choice, log 11). No watch is selected here. -/
def Obligations.ReadsAreLocalOrForwarded : Prop :=
  ∀ (s : State) (tag : UTag) (a : Addr) (z : Size) (d : Lanes) (r : RegionId),
    s.stall = none → s.quiescing = false → s.places < 32 → s.inReset = false → s.selectWatch .read a = none →
    s.inFlight[tag] = false → a.toNat % Size.bytes z = 0 → s.lookup a = some r →
    ((s.snapshot s.regions[r] a z).1 = laneMask a z →
      exec (.upstreamRequest tag .read a z d) s = .next
        { s with
          places := s.places + 1
          inFlight := s.inFlight.set tag true
          responses := s.responses ++
            [{ tag := tag, status := .ok, data := some (s.snapshot s.regions[r] a z).2, holdsTag := true }] }) ∧
    ((s.snapshot s.regions[r] a z).1 ≠ laneMask a z →
      exec (.upstreamRequest tag .read a z d) s = .next
        { s with
          places := s.places + 1
          inFlight := s.inFlight.set tag true
          tracker := s.tracker.set tag (some
            { addr := doubleword a, lanes := laneMask a z, snapMask := (s.snapshot s.regions[r] a z).1,
              snapData := (s.snapshot s.regions[r] a z).2, mark := none })
          forwardQueue := s.forwardQueue ++
            [{ tag := tag, kind := .read, addr := a, size := z, data := Lanes.zero, mark := none }] })

/-- The source of each lane of a snapshot (Table 6-1, R104, R105): the SEALED entry under COMMITTED; the OPEN entry
and failing it the SEALED entry under STAGED; the SEALED entry alone in RETIRE_DRAIN (R112). Lanes outside the
snapshot mask read 0 (the model's choice, log 11). -/
def Obligations.SnapshotFollowsTheView : Prop :=
  ∀ (s : State) (r : Region) (a : Addr) (z : Size) (k : Fin 8) (opened sld : Option Entry) (o c : Bool),
    s.findEntry r.group .opened (doubleword a) = opened → s.findEntry r.group .sealed (doubleword a) = sld →
    o = (hasLane (laneMask a z) k && opened.any fun e => hasLane e.mask k) →
    c = (hasLane (laneMask a z) k && sld.any fun e => hasLane e.mask k) →
    (r.state = .retireDrain ∨ r.view = .committed →
      hasLane (s.snapshot r a z).1 k = c ∧
      (s.snapshot r a z).2[k] = if c then (sld.elim Lanes.zero Entry.data)[k] else 0) ∧
    (r.state ≠ .retireDrain → r.view = .staged →
      hasLane (s.snapshot r a z).1 k = (o || c) ∧
      (s.snapshot r a z).2[k] =
        if o then (opened.elim Lanes.zero Entry.data)[k]
        else if c then (sld.elim Lanes.zero Entry.data)[k] else 0)

/-- A read changes no entry, no group, no region, no stall slot, no hold and no timebase, and at most appends one
response, whatever becomes of it (R105, R118). -/
def Obligations.ReadsLeaveStagedStateAlone : Prop :=
  ∀ (s t : State) (tag : UTag) (a : Addr) (z : Size) (d : Lanes),
    exec (.upstreamRequest tag .read a z d) s = .next t →
      t.pool = s.pool ∧ t.groups = s.groups ∧ t.regions = s.regions ∧ t.stall = s.stall ∧ t.hold = s.hold ∧
      t.timebase = s.timebase ∧ t.ready = s.ready ∧ t.nextIssue = s.nextIssue ∧ t.drainTags = s.drainTags ∧
      t.channel = s.channel ∧ t.lastGrant = s.lastGrant ∧ t.outstanding = s.outstanding ∧ t.port = s.port ∧
      t.quiescing = s.quiescing ∧
      (t.responses = s.responses ∨ ∃ q, t.responses = s.responses ++ [q])

/-- The lowest-numbered watch that matches a taken request counts it (R156). At its decimation it hands an ACCESS
record to the log, with the path of the request, whichever of the six it takes (R157, R158); for the rest the request
does what it does with every watch disabled, also where a PRESSURE request of its taking seals. There the ACCESS record
enters before the SEAL record (R158), and the two together leave the log, LOG_LOST_TOTAL, LOG_WATERMARK and LOG_LOSS. A
record handed to the log, of whatever kind, leaves everything as it is when its kind is
off (R160); enters at the tail with the gap of the records lost before it, and raises LOG_WATERMARK when it brings the
fill to the watermark (R162, R163); and on a full log is dropped and counted in the lost counter and LOG_LOST_TOTAL, and
raises LOG_LOSS (R161). -/
def Obligations.WatchesLogTakenRequests : Prop :=
  (∀ (s : State) (tag : UTag) (kind : ReqKind) (a : Addr) (z : Size) (d : Lanes) (w : Fin 4),
    (s.selectWatch kind a = some w ↔
      ((s.watches[w].enabled = true ∧ s.watches[w].low.toNat ≤ a.toNat ∧ a.toNat ≤ s.watches[w].high.toNat ∧
        (s.watches[w].kinds = .both ∨ (s.watches[w].kinds = .read ∧ kind = .read) ∨
          (s.watches[w].kinds = .write ∧ kind = .write))) ∧
      ∀ v : Fin 4, v < w → s.watches[v].matches kind a = false)) ∧
    (∀ (u : State) (path : Path) (watches : Vector Watch 4) (ts : Stamp),
      s.stall = none → s.quiescing = false → s.places < 32 → s.inReset = false →
      s.selectWatch kind a = some w → PathTaken s tag a z kind path →
      u = { s with watches := s.watches.map fun x => { x with enabled := false } } →
      watches = s.watches.set w { s.watches[w] with
        counter := if s.watches[w].counter + 1 = s.watches[w].decimation then 0 else s.watches[w].counter + 1 } →
      ts = { period := s.timebase.period, count := s.timebase.count, dir := s.timebase.dir } →
      ((∀ g : GroupId, ¬ PressureSeals s tag a z kind g) →
        ∃ t : State, exec (.upstreamRequest tag kind a z d) u = .next t ∧
          (s.watches[w].counter + 1 ≠ s.watches[w].decimation →
            exec (.upstreamRequest tag kind a z d) s = .next { t with watches := watches }) ∧
          (s.watches[w].counter + 1 = s.watches[w].decimation →
            exec (.upstreamRequest tag kind a z d) s = .next
              (State.logRecord { t with watches := watches } w ts (.access a tag kind z path)))) ∧
      (∀ g : GroupId, PressureSeals s tag a z kind g →
        ∃ t v : State, exec (.upstreamRequest tag kind a z d) s = .next t ∧
          exec (.upstreamRequest tag kind a z d) u = .next v ∧
          (s.watches[w].counter + 1 ≠ s.watches[w].decimation →
            t = { v with watches := watches } ∧ SealLeaves s t g .pressure ts) ∧
          (s.watches[w].counter + 1 = s.watches[w].decimation →
            t = { v with watches := watches, log := t.log, events := t.events } ∧
            SealLeaves (s.logRecord w ts (.access a tag kind z path)) t g .pressure ts ∧
            t.events.enables = v.events.enables ∧
            (∀ c : Counter, c ≠ .logLostTotal → t.counter c = v.counter c) ∧
            (∀ f : Flag, f ≠ .logWatermark → f ≠ .logLoss → t.flagSet f = v.flagSet f) ∧
            (∀ x : State,
              x = (s.logRecord w ts (.access a tag kind z path)).logRecord g ts
                (.sealed s.groups[g].openGen (s.openCount g) .pressure (s.fenceMembers g)) →
              t.log = x.log ∧ t.counter .logLostTotal = x.counter .logLostTotal ∧
              t.flagSet .logWatermark = x.flagSet .logWatermark ∧ t.flagSet .logLoss = x.flagSet .logLoss))))) ∧
  (∀ (u : State) (i : Fin 4) (ts : Stamp) (b : LogBody) (k : Nat),
    k = (match b with
      | .access .. => 0 | .sealed .. => 1 | .drainDone .. => 2 | .overrun .. => 3 | .drainFault .. => 4
      | .holdOn .. => 5 | .holdOff .. => 6) →
    (u.log.kinds.getLsbD k = false → u.logRecord i ts b = u) ∧
    (u.log.kinds.getLsbD k = true →
      (∀ l : Log, u.log.records.length < 32 →
        l = { u.log with
          records := u.log.records ++
            [{ index := i, stamp := ts, gap := u.log.lost, gapPresent := decide (0 < u.log.lost), body := b }]
          lost := 0 } →
        (u.log.records.length + 1 ≠ u.log.watermark → u.logRecord i ts b = { u with log := l }) ∧
        (u.log.records.length + 1 = u.log.watermark →
          u.logRecord i ts b = State.raise { u with log := l } .logWatermark)) ∧
      (32 ≤ u.log.records.length →
        u.logRecord i ts b =
          (State.bump { u with log := { u.log with lost := min 65535 (u.log.lost + 1) } } .logLostTotal 1).raise
            .logLoss)))

/-- The lanes of a request are its address modulo 8 and the following ones, its size in all; a merge replaces exactly
those lanes of the entry and keeps its address, group, role and arrival number (R24, R25). -/
def Obligations.LanesOfARequest : Prop :=
  (∀ (a : Addr) (z : Size) (k : Fin 8), a.toNat % Size.bytes z = 0 →
    hasLane (laneMask a z) k = decide (a.toNat % 8 ≤ k.val ∧ k.val < a.toNat % 8 + Size.bytes z)) ∧
  (∀ a : Addr, (doubleword a).toNat = a.toNat - a.toNat % 8) ∧
  (∀ (e : Entry) (m : LaneMask) (d : Lanes) (k : Fin 8),
    (e.merge m d).data[k] = (if hasLane m k then d[k] else e.data[k]) ∧
    hasLane (e.merge m d).mask k = (hasLane e.mask k || hasLane m k) ∧
    (e.merge m d).addr = e.addr ∧ (e.merge m d).group = e.group ∧ (e.merge m d).role = e.role ∧
    (e.merge m d).arrival = e.arrival)

/-! ### Responses, arbiter, downstream port -/

/-- The master takes the head of the response queue: its place is free and its tag leaves flight, unless it is the
answer to a tag clash (R135, R139; log 10). On an empty queue nothing is delivered (the model's choice, log 3). -/
def Obligations.ResponsesDeliveredInOrder : Prop :=
  ∀ (s : State), s.inReset = false →
    (s.responses = [] → exec .responseDelivered s = .next s) ∧
    (∀ (r : Response) (rest : List Response), s.responses = r :: rest →
      exec .responseDelivered s = .next
        { s with
          responses := rest
          places := s.places - 1
          inFlight := if r.holdsTag then s.inFlight.set r.tag false else s.inFlight })

/-- The arbiter grants an empty channel to the one requester that is ready, and of two to the one that was not granted
last (R141, R143, R144, R91, R92); memory taking the request empties the channel (R143). With the channel full or nothing
ready the grant changes nothing, nor does the taking of no request (the model's choice, log 3); lanes outside the mask,
and all lanes of a READ, are 0 (the model's choice, log 11). -/
def Obligations.ArbiterGrantsInTurn : Prop :=
  ∀ (s : State), s.inReset = false →
    exec .downstreamRequestTaken s = .next { s with channel := none } ∧
    (∀ q : DRequest, s.channel = some q → exec .arbiterGrant s = .next s) ∧
    (s.channel = none →
      (s.forwardQueue = [] → s.drainWrite = none → exec .arbiterGrant s = .next s) ∧
      (∀ (r : FwdReq) (rest : List FwdReq), s.forwardQueue = r :: rest →
        s.drainWrite = none ∨ s.lastGrant = .drain →
        exec .arbiterGrant s = .next
          { s with
            forwardQueue := rest
            channel := some
              { tag := forwardTag r.tag, kind := r.kind, addr := doubleword r.addr, mask := laneMask r.addr r.size,
                data := match r.kind with
                  | .read => Lanes.zero
                  | .write => maskLanes (laneMask r.addr r.size) r.data }
            outstanding := s.outstanding.set r.tag
              (some { kind := r.kind, addr := r.addr, size := r.size, mark := r.mark })
            lastGrant := .forward }) ∧
      (∀ (g : GroupId) (d : Fin 4) (e : Entry), s.drainWrite = some (g, d, e) →
        s.forwardQueue = [] ∨ s.lastGrant = .forward →
        exec .arbiterGrant s = .next
          { s with
            pool := s.pool.map fun x =>
              if x.group = g ∧ x.role = .sealed ∧ x.arrival = s.nextIssue then { x with issued := true } else x
            channel := some { tag := drainTag d, kind := .write, addr := e.addr, mask := e.mask,
                              data := maskLanes e.mask e.data }
            drainTags := s.drainTags.set d (some { group := g, arrival := s.nextIssue })
            nextIssue := s.nextIssue + 1
            lastGrant := .drain }))

/-- The drain engine presents the entry of the next-issue number of the DRAINING head of the ready queue, under the
lowest-numbered free drain tag, and nothing while quiescing (R91, R92, R98). -/
def Obligations.DrainWritePresented : Prop :=
  ∀ (s : State) (g : GroupId) (d : Fin 4) (e : Entry),
    s.drainWrite = some (g, d, e) ↔
      s.quiescing = false ∧ s.ready.head? = some g ∧
      (∃ sl, s.groups[g].slot = some sl ∧ sl.phase = .draining ∧ s.nextIssue < sl.entries) ∧
      s.drainTags[d] = none ∧ (∀ b : Fin 4, b < d → s.drainTags[b] ≠ none) ∧
      (s.pool.find? fun x => decide (x.group = g ∧ x.role = .sealed ∧ x.arrival = s.nextIssue)) = some e

/-- A response whose tag is not outstanding is discarded, counted in STRAY_RESPONSES and raises PROTOCOL (R146). -/
def Obligations.StrayResponsesCounted : Prop :=
  ∀ (s : State) (status : MemStatus) (d : Lanes), s.inReset = false →
    (∀ t : UTag, s.outstanding[t] = none →
      exec (.downstreamResponse (forwardTag t) status d) s =
        .next ((s.bump .strayResponses 1).raise .protocol)) ∧
    (∀ b : Fin 4, s.drainTags[b] = none →
      exec (.downstreamResponse (drainTag b) status d) s =
        .next ((s.bump .strayResponses 1).raise .protocol))

/-- Memory's answer to a forwarded read is merged with its snapshot, the snapshot winning in every lane it covers
(R109); memory's answer to a pass-through request is passed on (R138, R142); ERR becomes ERR_MEM with data 0 (R110,
R138). Stated for unmarked requests, which change no fence count; every other part of the state is unchanged. -/
def Obligations.ForwardedRequestsAnswered : Prop :=
  ∀ (s : State) (t : UTag) (o : OutReq) (d : Lanes), s.inReset = false → s.outstanding[t] = some o →
    (∀ q : ReadRecord, s.tracker[t] = some q → q.mark = none →
      exec (.downstreamResponse (forwardTag t) .ok d) s = .next
        { s with
          outstanding := s.outstanding.set t none
          tracker := s.tracker.set t none
          responses := s.responses ++
            [{ tag := t, status := .ok, holdsTag := true
               data := some (Vector.ofFn fun k => if hasLane q.lanes k then
                 (if hasLane q.snapMask k then q.snapData[k] else d[k]) else 0) }] } ∧
      exec (.downstreamResponse (forwardTag t) .err d) s = .next
        { s with
          outstanding := s.outstanding.set t none
          tracker := s.tracker.set t none
          responses := s.responses ++
            [{ tag := t, status := .errMem, data := some Lanes.zero, holdsTag := true }] }) ∧
    (s.tracker[t] = none → o.mark = none →
      exec (.downstreamResponse (forwardTag t) .ok d) s = .next
        { s with
          outstanding := s.outstanding.set t none
          responses := s.responses ++
            [{ tag := t, status := .ok, holdsTag := true
               data := match o.kind with
                 | .read => some (maskLanes (laneMask o.addr o.size) d)
                 | .write => none }] } ∧
      exec (.downstreamResponse (forwardTag t) .err d) s = .next
        { s with
          outstanding := s.outstanding.set t none
          responses := s.responses ++
            [{ tag := t, status := .errMem, holdsTag := true
               data := match o.kind with
                 | .read => some Lanes.zero
                 | .write => none }] })

/-- The answer to a marked request, a pass-through request or a forwarded read, with either status, lowers the fence
count of the group its mark names, and the request is answered as any other. At 0 the slot becomes READY and joins the
tail of the ready queue; alone there it is at once DRAINING, unless the part is quiescing (R87, R88, R89, R90, R109,
R110, R142). -/
def Obligations.MarkedResponsesLowerTheFence : Prop :=
  ∀ (s : State) (t : UTag) (o : OutReq) (st : MemStatus) (d : Lanes) (a : Response) (g : GroupId) (sl : SealedSlot),
    s.inReset = false → s.outstanding[t] = some o →
    ((s.tracker[t] = none ∧ o.mark = some g ∧
        a = { tag := t, status := (match st with | .ok => .ok | .err => .errMem), holdsTag := true
              data := match st, o.kind with
                | _, .write => none
                | .ok, .read => some (maskLanes (laneMask o.addr o.size) d)
                | .err, .read => some Lanes.zero }) ∨
      (∃ q : ReadRecord, s.tracker[t] = some q ∧ q.mark = some g ∧
        a = { tag := t, status := (match st with | .ok => .ok | .err => .errMem), holdsTag := true
              data := match st with
                | .ok => some (Vector.ofFn fun k => if hasLane q.lanes k then
                    (if hasLane q.snapMask k then q.snapData[k] else d[k]) else 0)
                | .err => some Lanes.zero })) →
    s.groups[g].slot = some sl → sl.phase = .fenced →
    (2 ≤ sl.fence →
      exec (.downstreamResponse (forwardTag t) st d) s = .next
        { s with
          outstanding := s.outstanding.set t none
          tracker := s.tracker.set t none
          groups := s.groups.set g { s.groups[g] with slot := some { sl with fence := sl.fence - 1 } }
          responses := s.responses ++ [a] }) ∧
    (sl.fence = 1 → s.ready = [] → s.quiescing = false →
      exec (.downstreamResponse (forwardTag t) st d) s = .next
        { s with
          outstanding := s.outstanding.set t none
          tracker := s.tracker.set t none
          groups := s.groups.set g { s.groups[g] with slot := some { sl with fence := 0, phase := .draining } }
          ready := [g]
          nextIssue := 0
          responses := s.responses ++ [a] }) ∧
    (sl.fence = 1 →
      s.quiescing = true ∨
        (∃ h x, s.ready.head? = some h ∧ h ≠ g ∧ s.groups[h].slot = some x ∧ x.phase = .draining) →
      exec (.downstreamResponse (forwardTag t) st d) s = .next
        { s with
          outstanding := s.outstanding.set t none
          tracker := s.tracker.set t none
          groups := s.groups.set g { s.groups[g] with slot := some { sl with fence := 0, phase := .ready } }
          ready := s.ready ++ [g]
          responses := s.responses ++ [a] })

/-- The answer to a drain write that is not the last of its generation, and during a quiesce to any, frees its tag and
its entry and raises the written count, or with ERR the failed count with DRAIN_FAULTS(g), DRAIN_FAULT and a record;
then the stall slot is retried, and the generation does not complete (R33, R37, R94, R95, R98). -/
def Obligations.DrainResponsesCounted : Prop :=
  ∀ (s : State) (b : Fin 4) (n : DrainBinding) (sl : SealedSlot) (e : Entry) (d : Lanes),
    s.inReset = false → s.drainTags[b] = some n → s.groups[n.group].slot = some sl →
    sl.written + sl.failed + 1 ≠ sl.entries ∨ s.quiescing = true →
    (s.pool.find? fun x => decide (x.group = n.group ∧ x.role = .sealed ∧ x.arrival = n.arrival)) = some e →
    exec (.downstreamResponse (drainTag b) .ok d) s = .next
      (State.retry { s with
        drainTags := s.drainTags.set b none
        groups := s.groups.set n.group
          { s.groups[n.group] with slot := some { sl with written := sl.written + 1 } }
        pool := s.pool.filter fun x =>
          !decide (x.group = n.group ∧ x.role = .sealed ∧ x.arrival = n.arrival) }) ∧
    exec (.downstreamResponse (drainTag b) .err d) s = .next
      (State.retry (((({ s with
          drainTags := s.drainTags.set b none
          groups := s.groups.set n.group
            { s.groups[n.group] with slot := some { sl with failed := sl.failed + 1 } }
          pool := s.pool.filter fun x =>
            !decide (x.group = n.group ∧ x.role = .sealed ∧ x.arrival = n.arrival) } :
        State).bump (.drainFaults n.group) 1).raise .drainFault).logRecord n.group s.now
          (.drainFault e.addr sl.gen)))

/-- The answer to the last drain write of a generation, with either status, completes it: with ERR the DRAIN_FAULT
record, its counter and its flag first; then a DRAIN_DONE record, DONE(g), the slot NONE, the group out of the ready
queue, its RETIRE_DRAIN regions OFF, and the next group of the ready queue DRAINING from its entry 0 (R90, R94, R95,
R96, R14). A pending retire seal is taken before the next group drains, or under a hold stays pending (R77). A stalled
write of a region turned OFF is forwarded (R14, R33); where a region is turned OFF, a stalled write of another region
of the group that still waits for quota makes its PRESSURE request anew, now that the slot is NONE (R33 cause 4; the
model's reading beside R96 step 4, log 25), and is staged into the next generation; lanes of the new entry outside its
mask are 0 (the model's choice, log 11). No quiesce. -/
def Obligations.LastDrainResponseCompletes : Prop :=
  ∀ (s v u : State) (b : Fin 4) (n : DrainBinding) (sl : SealedSlot) (e : Entry) (st : MemStatus) (d : Lanes)
    (g : GroupId) (rest : List GroupId),
    s.inReset = false → s.quiescing = false → s.drainTags[b] = some n → n.group = g → s.groups[g].slot = some sl →
    sl.phase = .draining → sl.written + sl.failed + 1 = sl.entries → s.ready = g :: rest → g ∉ rest →
    (∀ h : GroupId, rest.head? = some h → ∃ x, s.groups[h].slot = some x ∧ x.phase = .ready) →
    (st = .err →
      (s.pool.find? fun x => decide (x.group = g ∧ x.role = .sealed ∧ x.arrival = n.arrival)) = some e) →
    v = { s with
      drainTags := s.drainTags.set b none
      groups := Vector.ofFn fun k =>
        if k = g then { s.groups[k] with slot := none }
        else if rest.head? = some k then
          { s.groups[k] with slot := s.groups[k].slot.map fun x => { x with phase := .draining } }
        else s.groups[k]
      nextIssue := if rest = [] then s.nextIssue else 0
      regions := Vector.ofFn fun r => if s.regions[r].group = g ∧ s.regions[r].state = .retireDrain then
        { s.regions[r] with state := .off } else s.regions[r]
      ready := rest
      pool := s.pool.filter fun x => !decide (x.group = g ∧ x.role = .sealed ∧ x.arrival = n.arrival) } →
    u = State.raise
      (match st with
        | .ok => v.logRecord g s.now (.drainDone sl.gen (sl.written + 1) sl.failed false sl.elapsed)
        | .err => State.logRecord
            (((v.bump (.drainFaults g) 1).raise .drainFault).logRecord g s.now (.drainFault e.addr sl.gen))
            g s.now (.drainDone sl.gen sl.written (sl.failed + 1) false sl.elapsed)) (.done g) →
    (s.stall = none →
      (s.groups[g].pendingRetire = false ∨ s.hold.state = .held →
        exec (.downstreamResponse (drainTag b) st d) s = .next u) ∧
      (s.groups[g].pendingRetire = true → s.hold.state ≠ .held →
        ∃ t, exec (.downstreamResponse (drainTag b) st d) s = .next t ∧
          (∀ h : GroupId, h ≠ g → t.groups[h] = u.groups[h]) ∧ (rest ≠ [] → t.nextIssue = 0) ∧
          (0 < s.openCount g → SealLeaves u t g .retire s.now ∧ t.pool = u.pool.map fun e =>
            if e.group = g ∧ e.role = .opened then { e with role := .sealed, issued := false } else e) ∧
          (s.openCount g = 0 → EmptySealLeaves u t g .retire s.now))) ∧
    (∀ w : StalledWrite, s.stall = some w → s.groups[g].pendingRetire = false → s.regions[w.region].group = g →
      (s.regions[w.region].state = .retireDrain →
        exec (.downstreamResponse (drainTag b) st d) s = .next
          { u with
            stall := none
            forwardQueue := u.forwardQueue ++
              [{ tag := w.tag, kind := .write, addr := w.addr, size := w.size, data := w.data, mark := none }] }) ∧
      (s.regions[w.region].state = .staging → s.hold.state ≠ .held → s.groups[g].pressureSeal = true →
        (∃ r : RegionId, s.regions[r].group = g ∧ s.regions[r].state = .retireDrain) →
        s.findEntry g .opened (doubleword w.addr) = none → s.pool.length ≤ 64 →
        (∃ e ∈ s.pool, e.group = g ∧ e.role = .sealed ∧ e.arrival = n.arrival) →
        1 ≤ s.groups[g].quota → s.groups[g].quota ≤ s.openCount g →
        ∃ t, exec (.downstreamResponse (drainTag b) st d) s = .next t ∧ SealLeaves u t g .pressure s.now ∧
          (∀ h : GroupId, h ≠ g → t.groups[h] = u.groups[h]) ∧ (rest ≠ [] → t.nextIssue = 0) ∧ t.stall = none ∧
          t.responses = s.responses ++ [{ tag := w.tag, status := .ok, data := none, holdsTag := true }] ∧
          t.pool = (u.pool.map fun e =>
              if e.group = g ∧ e.role = .opened then { e with role := .sealed, issued := false } else e) ++
            [{ addr := doubleword w.addr, data := maskLanes (laneMask w.addr w.size) w.data,
               mask := laneMask w.addr w.size, group := g, role := .opened, arrival := 0, issued := false }]))

/-! ### Time -/

/-- What a tick does to the timebase, whatever else falls due at it: the interval that begins takes PRESCALE (R47); a
STOPPED counter stays (R48); in mode UP the count climbs to the active limit and then wraps (R53); in UPDOWN it climbs,
turns at the limit and descends (R54); in ONESHOT it climbs and stops at the limit (R55); a ZERO raises the period
number and loads the shadows (R52, R57). -/
def Obligations.TickStepsTheCounter : Prop :=
  ∀ (s : State), s.inReset = false → ∃ t, exec .tick s = .next t ∧
    (s.timebase.running = false → t.timebase = { s.timebase with interval := s.timebase.prescale }) ∧
    (s.timebase.running = true → s.timebase.mode = .up → s.timebase.count < s.timebase.limit →
      t.timebase =
        { s.timebase with interval := s.timebase.prescale, count := s.timebase.count + 1, dir := .up }) ∧
    (s.timebase.running = true → s.timebase.mode = .up → s.timebase.count = s.timebase.limit →
      t.timebase =
        { s.timebase with
          interval := s.timebase.prescale, count := 0, dir := .up, period := s.timebase.period + 1,
          limit := s.timebase.limitShadow, mark := s.timebase.markShadow }) ∧
    (s.timebase.running = true → s.timebase.mode = .updown → s.timebase.dir = .up →
      t.timebase =
        { s.timebase with
          interval := s.timebase.prescale, count := s.timebase.count + 1
          dir := if s.timebase.count + 1 = s.timebase.limit then .down else .up }) ∧
    (s.timebase.running = true → s.timebase.mode = .updown → s.timebase.dir = .down → 1 < s.timebase.count →
      t.timebase = { s.timebase with interval := s.timebase.prescale, count := s.timebase.count - 1 }) ∧
    (s.timebase.running = true → s.timebase.mode = .updown → s.timebase.dir = .down → s.timebase.count = 1 →
      t.timebase =
        { s.timebase with
          interval := s.timebase.prescale, count := 0, dir := .up, period := s.timebase.period + 1,
          limit := s.timebase.limitShadow, mark := s.timebase.markShadow }) ∧
    (s.timebase.running = true → s.timebase.mode = .oneshot →
      t.timebase =
        { s.timebase with
          interval := s.timebase.prescale, count := s.timebase.count + 1, dir := .up
          running := s.timebase.count + 1 != s.timebase.limit })

/-- At a tick at which nothing falls due, the counts that ticks advance rise by one and nothing else changes (R34, R48,
R97, R123). Stated with the counter STOPPED. -/
def Obligations.QuietTickAgesCounts : Prop :=
  ∀ (s : State), s.inReset = false → s.timebase.running = false →
    (∀ w, s.stall = some w → min 65535 (w.elapsed + 1) < s.stallLimit) →
    (s.hold.state = .filtering → s.hold.counter + 1 < s.hold.filter) →
    exec .tick s = .next
      { s with
        stall := s.stall.map fun w => { w with elapsed := min 65535 (w.elapsed + 1) }
        groups := Vector.ofFn fun g =>
          { s.groups[g] with slot := s.groups[g].slot.map fun sl =>
              { sl with elapsed := min 65535 (sl.elapsed + 1) } }
        hold := { s.hold with
          counter := if s.hold.state = .filtering then s.hold.counter + 1 else s.hold.counter }
        timebase := { s.timebase with interval := s.timebase.prescale } }

/-- LIMIT, ZERO, PEAK, MARK_UP and MARK_DOWN are the ticks at which the counter arrives as R53 to R57 say, with the
counter left as the tick leaves it (that the row is the whole tick is the model's reading, log 1). A step makes the
events of its arrival and no others, each once: LIMIT, ZERO or PEAK by mode, and the mark event by the direction of the
arrival, compared at a ZERO with the mark it loads (Table 3-2, R56). Its events carry the count it leaves, the period
number it leaves and the direction of its arrival, which a PEAK and the ZERO of UPDOWN do not leave behind (Table 3-3,
R58); the current timestamp is the count, the direction and the period number as they stand (R59). -/
def Obligations.NamedTicksStepTheCounter : Prop :=
  (∀ (s : State) (tb wrapped : Timebase), s.inReset = false → s.timebase = tb → tb.running = true →
    wrapped = { tb with
      interval := tb.prescale, count := 0, dir := .up, period := tb.period + 1, limit := tb.limitShadow,
      mark := tb.markShadow } →
    (tb.mode = .up → tb.count < tb.limit → tb.count + 1 = tb.limit →
      ∃ t, exec .limit s = .next t ∧
        t.timebase = { tb with interval := tb.prescale, count := tb.limit, dir := .up }) ∧
    (tb.mode = .oneshot → tb.count + 1 = tb.limit →
      ∃ t, exec .limit s = .next t ∧
        t.timebase = { tb with interval := tb.prescale, count := tb.limit, dir := .up, running := false }) ∧
    ((tb.mode = .up ∧ tb.count = tb.limit) ∨ (tb.mode = .updown ∧ tb.dir = .down ∧ tb.count = 1) →
      ∃ t, exec .zero s = .next t ∧ t.timebase = wrapped) ∧
    (tb.mode = .updown → tb.dir = .up → tb.count + 1 = tb.limit →
      ∃ t, exec .peak s = .next t ∧
        t.timebase = { tb with interval := tb.prescale, count := tb.limit, dir := .down }) ∧
    (tb.mode = .up → tb.count < tb.limit → tb.count + 1 = tb.mark →
      ∃ t, exec .markUp s = .next t ∧
        t.timebase = { tb with interval := tb.prescale, count := tb.mark, dir := .up }) ∧
    (tb.mode = .up → tb.count = tb.limit → tb.markShadow = 0 →
      ∃ t, exec .markUp s = .next t ∧ t.timebase = wrapped) ∧
    (tb.mode = .updown → tb.dir = .up → tb.count + 1 = tb.mark →
      ∃ t, exec .markUp s = .next t ∧
        t.timebase = { tb with
          interval := tb.prescale, count := tb.mark, dir := if tb.mark = tb.limit then .down else .up }) ∧
    (tb.mode = .oneshot → tb.count + 1 = tb.mark →
      ∃ t, exec .markUp s = .next t ∧
        t.timebase = { tb with
          interval := tb.prescale, count := tb.mark, dir := .up, running := tb.mark != tb.limit }) ∧
    (tb.mode = .updown → tb.dir = .down → 1 < tb.count → tb.count - 1 = tb.mark →
      ∃ t, exec .markDown s = .next t ∧
        t.timebase = { tb with interval := tb.prescale, count := tb.mark }) ∧
    (tb.mode = .updown → tb.dir = .down → tb.count = 1 → tb.markShadow = 0 →
      ∃ t, exec .markDown s = .next t ∧ t.timebase = wrapped)) ∧
  (∀ tb : Timebase, tb.step.events.Nodup ∧
    (tb.running = false → tb.step.events = []) ∧
    (tb.running = true → tb.mode = .up → tb.count < tb.limit →
      (∀ e : TbEvent, e ∈ tb.step.events ↔
        (e = .limit ∧ tb.count + 1 = tb.limit) ∨ (e = .markUp ∧ tb.count + 1 = tb.mark)) ∧
      tb.step.stamp = { period := tb.period, count := tb.count + 1, dir := .up }) ∧
    (tb.running = true → tb.mode = .up → tb.count = tb.limit →
      (∀ e : TbEvent, e ∈ tb.step.events ↔ e = .zero ∨ (e = .markUp ∧ tb.markShadow = 0)) ∧
      tb.step.stamp = { period := tb.period + 1, count := 0, dir := .up }) ∧
    (tb.running = true → tb.mode = .updown → tb.dir = .up →
      (∀ e : TbEvent, e ∈ tb.step.events ↔
        (e = .peak ∧ tb.count + 1 = tb.limit) ∨ (e = .markUp ∧ tb.count + 1 = tb.mark)) ∧
      tb.step.stamp = { period := tb.period, count := tb.count + 1, dir := .up }) ∧
    (tb.running = true → tb.mode = .updown → tb.dir = .down → 1 < tb.count →
      (∀ e : TbEvent, e ∈ tb.step.events ↔ e = .markDown ∧ tb.count - 1 = tb.mark) ∧
      tb.step.stamp = { period := tb.period, count := tb.count - 1, dir := .down }) ∧
    (tb.running = true → tb.mode = .updown → tb.dir = .down → tb.count = 1 →
      (∀ e : TbEvent, e ∈ tb.step.events ↔ e = .zero ∨ (e = .markDown ∧ tb.markShadow = 0)) ∧
      tb.step.stamp = { period := tb.period + 1, count := 0, dir := .down }) ∧
    (tb.running = true → tb.mode = .oneshot →
      (∀ e : TbEvent, e ∈ tb.step.events ↔
        (e = .limit ∧ tb.count + 1 = tb.limit) ∨ (e = .markUp ∧ tb.count + 1 = tb.mark)) ∧
      tb.step.stamp = { period := tb.period, count := tb.count + 1, dir := .up })) ∧
  ∀ s : State, s.now = { period := s.timebase.period, count := s.timebase.count, dir := s.timebase.dir }

/-- A tick's events, neither HELD nor quiescing: each raises the divider count of every group whose source matches it
and of no other (R68, R69), whatever the order among the groups (free, log 2), while no group's count reaches its
divider. Every group is otherwise only a tick older. A source matches the event of its name, MARK_ANY both marks, and
NONE nothing (Table 4-1). Stated for TICK, and for the five ticks named after an event that comes about (that such a row
is the whole tick is the model's choice, log 1). No write is stalled and no filter runs here. -/
def Obligations.DeliveredEventsCounted : Prop :=
  (∀ e : TbEvent,
    (Source.none.matches e = true ↔ False) ∧ (Source.limit.matches e = true ↔ e = .limit) ∧
    (Source.zero.matches e = true ↔ e = .zero) ∧ (Source.peak.matches e = true ↔ e = .peak) ∧
    (Source.markUp.matches e = true ↔ e = .markUp) ∧ (Source.markDown.matches e = true ↔ e = .markDown) ∧
    (Source.markAny.matches e = true ↔ e = .markUp ∨ e = .markDown) ∧
    (Source.sync.matches e = true ↔ e = .sync)) ∧
  ∀ (s : State) (c : Instr), s.inReset = false → s.hold.state = .clear → s.quiescing = false → s.stall = none →
    (c = .tick ∨ ∃ k ∈ s.timebase.step.events, (c, k) ∈
      ([(.limit, .limit), (.zero, .zero), (.peak, .peak), (.markUp, .markUp), (.markDown, .markDown)] :
        List (Instr × TbEvent))) →
    (∀ g : GroupId, (∃ e ∈ s.timebase.step.events, s.groups[g].source.matches e = true) →
      s.groups[g].dividerCount + 1 < s.groups[g].divider) →
    ∃ t, exec c s = .next t ∧ t.pool = s.pool ∧ t.regions = s.regions ∧ t.log = s.log ∧ t.events = s.events ∧
      t.hold = s.hold ∧ t.ready = s.ready ∧ t.responses = s.responses ∧
      ∀ g : GroupId, t.groups[g] =
        { s.groups[g] with
          dividerCount :=
            if s.timebase.step.events.any fun e => s.groups[g].source.matches e then s.groups[g].dividerCount + 1
            else s.groups[g].dividerCount
          slot := s.groups[g].slot.map fun sl => { sl with elapsed := min 65535 (sl.elapsed + 1) } }

/-- A tick's events while HELD or quiescing are suppressed: each raises SUPPRESSED(g) of every group whose source
matches it, and while HELD the hold unit's suppressed total; no divider count moves and no group seals (R71, R129,
R132). No write is stalled and no filter runs here. -/
def Obligations.SuppressedEventsCounted : Prop :=
  ∀ (s : State), s.inReset = false → s.hold.state ≠ .filtering → s.stall = none →
    s.hold.state = .held ∨ s.quiescing = true →
    ∃ t, exec .tick s = .next t ∧ t.pool = s.pool ∧ t.regions = s.regions ∧ t.log = s.log ∧
      t.events.flags = s.events.flags ∧ t.ready = s.ready ∧
      (∀ g : GroupId, t.groups[g] =
        { s.groups[g] with
          slot := s.groups[g].slot.map fun sl => { sl with elapsed := min 65535 (sl.elapsed + 1) } }) ∧
      (∀ g : GroupId, t.counter (.suppressed g) =
        if s.timebase.step.events.any fun e => s.groups[g].source.matches e then
          min 65535 (s.counter (.suppressed g) + 1)
        else s.counter (.suppressed g)) ∧
      (s.hold.state ≠ .held → t.hold = s.hold) ∧
      (s.hold.state = .held → s.hold.suppressed ≤ 65535 → t.hold =
        { s.hold with
          suppressed := min 65535 (s.hold.suppressed +
            (([0, 1, 2, 3] : List GroupId).countP fun g =>
              s.timebase.step.events.any fun e => s.groups[g].source.matches e)) })

/-- An event that brings a group's divider count to its divider makes a TRIGGER request. With the sealed slot NONE it
seals: the open generation becomes the sealed one, behind its fence, and the open generation number rises by one (R69,
R81, R82, R84, R86 to R90); an empty open generation is complete at once (R83). With the slot occupied it is a publish
overrun, counted, flagged and recorded, and nothing seals (R73, R85). In each the count returns to 0, the other groups
are only a tick older, and the SEAL and OVERRUN records carry the event's timestamp. One group matches here, no write is
stalled and no filter runs. -/
def Obligations.TriggerSealsOrOverruns : Prop :=
  ∀ (s u : State) (g : GroupId), s.inReset = false → s.hold.state = .clear → s.quiescing = false → s.stall = none →
    (∃ e ∈ s.timebase.step.events, s.groups[g].source.matches e = true) →
    (∀ h : GroupId, h ≠ g → ∀ e ∈ s.timebase.step.events, s.groups[h].source.matches e = false) →
    s.groups[g].dividerCount + 1 = s.groups[g].divider →
    u = { s with
      groups := Vector.ofFn fun k =>
        { s.groups[k] with
          dividerCount := if k = g then 0 else s.groups[k].dividerCount
          slot := s.groups[k].slot.map fun sl => { sl with elapsed := min 65535 (sl.elapsed + 1) } } } →
    (s.groups[g].slot = none → 0 < s.openCount g →
      ∃ (t : State) (sl : SealedSlot), exec .tick s = .next t ∧
        SealLeaves u t g .trigger s.timebase.step.stamp ∧
        t.groups[g].slot = some sl ∧ sl.gen = s.groups[g].openGen ∧ sl.entries = s.openCount g ∧
        sl.written = 0 ∧ sl.failed = 0 ∧ sl.elapsed = 0 ∧
        t.groups[g].openGen = s.groups[g].openGen + 1 ∧ t.groups[g].dividerCount = 0 ∧
        t.counter (.seals g) = satAdd (s.counter (.seals g)) 1 ∧
        t.pool = s.pool.map fun e =>
          if e.group = g ∧ e.role = .opened then { e with role := .sealed, issued := false } else e) ∧
    (s.groups[g].slot = none → s.openCount g = 0 → s.groups[g].pendingRetire = false →
      ∃ t : State, exec .tick s = .next t ∧ EmptySealLeaves u t g .trigger s.timebase.step.stamp ∧
        t.groups[g].dividerCount = 0) ∧
    (∀ sl : SealedSlot, s.groups[g].slot = some sl →
      ∃ t : State, exec .tick s = .next t ∧ t.pool = s.pool ∧ t.groups = u.groups ∧ t.regions = s.regions ∧
        t.ready = s.ready ∧ t.nextIssue = s.nextIssue ∧
        t.groups[g].slot = some { sl with elapsed := min 65535 (sl.elapsed + 1) } ∧
        t.groups[g].openGen = s.groups[g].openGen ∧ t.groups[g].dividerCount = 0 ∧
        t.log = (s.logRecord g s.timebase.step.stamp (.overrun sl.gen sl.phase)).log ∧
        t.counter (.overruns g) = satAdd (s.counter (.overruns g)) 1 ∧ t.flagSet (.overrun g) = true)

/-- At the tick at which its elapsed count reaches STALL_LIMIT, the stalled write is answered ERR_STAGE, counted and
flagged, and the slot empties; the pool and the regions are unchanged and the groups are only a tick older (R34, R35).
At a tick at which it does not, the row comes about not at all (the model's reading, logs 1 and 3). The counter is
STOPPED and no filter runs here. -/
def Obligations.StalledWriteExpires : Prop :=
  ∀ (s : State) (w : StalledWrite), s.inReset = false → s.timebase.running = false → s.hold.state ≠ .filtering →
    s.stall = some w →
    (s.stallLimit ≤ min 65535 (w.elapsed + 1) →
      ∃ t, exec .stallTimeout s = .next t ∧ exec .tick s = .next t ∧
        t.stall = none ∧
        t.responses = s.responses ++ [{ tag := w.tag, status := .errStage, data := none, holdsTag := true }] ∧
        t.counter .stallTimeouts = satAdd (s.counter .stallTimeouts) 1 ∧
        t.counter .refusedWrites = s.counter .refusedWrites ∧
        t.flagSet .stallTimeout = true ∧ t.flagSet .refused = s.flagSet .refused ∧
        t.pool = s.pool ∧ t.regions = s.regions ∧ t.forwardQueue = s.forwardQueue ∧ t.log = s.log ∧
        ∀ g : GroupId, t.groups[g] =
          { s.groups[g] with
            slot := s.groups[g].slot.map fun sl => { sl with elapsed := min 65535 (sl.elapsed + 1) } }) ∧
    (min 65535 (w.elapsed + 1) < s.stallLimit → exec .stallTimeout s = .next s)

/-- A SYNC arrival by SYNC_MODE and run state: it leaves the timebase as it is, or restarts the count with the period
number raised and the shadows loaded (R52, R57, R61). Its events, SYNC and at a restart ZERO as well, are delivered to
the groups whose source matches them: each counts one event, or while HELD or quiescing one suppressed event (R68, R69,
R71), whatever the order among the groups (free, log 2), and at its divider a group seals, an empty generation being
complete at once, or overruns an occupied slot (R69, R81, R83, R85), the last three for one matching group with no write
stalled. -/
def Obligations.SyncArrivalsTaken : Prop :=
  ∀ (s : State), s.inReset = false →
    (s.timebase.syncMode = .ignore → exec .syncArrival s = .next s) ∧
    (s.timebase.syncMode = .event ∨ (s.timebase.syncMode = .restart ∧ s.timebase.running = false) →
      ∃ t, exec .syncArrival s = .next t ∧ t.timebase = s.timebase) ∧
    (s.timebase.syncMode = .restart → s.timebase.running = true →
      ∃ t, exec .syncArrival s = .next t ∧ t.timebase =
        { s.timebase with
          count := 0, dir := .up, period := s.timebase.period + 1, limit := s.timebase.limitShadow,
          mark := s.timebase.markShadow }) ∧
    (∀ evs : List TbEvent,
      (evs = [.sync] ∧
          (s.timebase.syncMode = .event ∨ (s.timebase.syncMode = .restart ∧ s.timebase.running = false))) ∨
        (evs = [.sync, .zero] ∧ s.timebase.syncMode = .restart ∧ s.timebase.running = true) →
      (s.hold.state ≠ .held → s.quiescing = false →
        (∀ g : GroupId, (∃ e ∈ evs, s.groups[g].source.matches e = true) →
          s.groups[g].dividerCount + 1 < s.groups[g].divider) →
        ∃ t, exec .syncArrival s = .next t ∧ t.pool = s.pool ∧ t.log = s.log ∧ t.events = s.events ∧
          ∀ g : GroupId, t.groups[g] =
            { s.groups[g] with
              dividerCount := if evs.any fun e => s.groups[g].source.matches e then s.groups[g].dividerCount + 1
                else s.groups[g].dividerCount }) ∧
      (s.hold.state = .held ∨ s.quiescing = true →
        ∃ t, exec .syncArrival s = .next t ∧ t.pool = s.pool ∧ t.log = s.log ∧ t.groups = s.groups ∧
          ∀ g : GroupId, t.counter (.suppressed g) =
            if evs.any fun e => s.groups[g].source.matches e then min 65535 (s.counter (.suppressed g) + 1)
            else s.counter (.suppressed g)) ∧
      (∀ (g : GroupId) (u : State), s.hold.state ≠ .held → s.quiescing = false → s.stall = none →
        (∃ e ∈ evs, s.groups[g].source.matches e = true) →
        (∀ h : GroupId, h ≠ g → ∀ e ∈ evs, s.groups[h].source.matches e = false) →
        s.groups[g].dividerCount + 1 = s.groups[g].divider →
        u = { s with groups := s.groups.set g { s.groups[g] with dividerCount := 0 } } →
        (s.groups[g].slot = none → 0 < s.openCount g →
          ∃ t, exec .syncArrival s = .next t ∧ SealLeaves u t g .trigger t.now ∧ t.groups[g].dividerCount = 0 ∧
            t.pool = s.pool.map fun e =>
              if e.group = g ∧ e.role = .opened then { e with role := .sealed, issued := false } else e) ∧
        (s.groups[g].slot = none → s.openCount g = 0 → s.groups[g].pendingRetire = false →
          ∃ t, exec .syncArrival s = .next t ∧ EmptySealLeaves u t g .trigger t.now ∧
            t.groups[g].dividerCount = 0) ∧
        (∀ sl : SealedSlot, s.groups[g].slot = some sl →
          ∃ t, exec .syncArrival s = .next t ∧ t.pool = s.pool ∧ t.groups = u.groups ∧ t.regions = s.regions ∧
            t.ready = s.ready ∧ t.nextIssue = s.nextIssue ∧ t.groups[g].slot = some sl ∧
            t.groups[g].dividerCount = 0 ∧ t.flagSet (.overrun g) = true ∧
            t.counter (.overruns g) = satAdd (s.counter (.overruns g)) 1 ∧
            t.log = (s.logRecord g t.now (.overrun sl.gen sl.phase)).log)))

/-! ### The hold line and reset -/

/-- HLD_N low while CLEAR starts the filter, or with HOLD_FILTER 0 enters HELD with cause LINE; while FILTERING or
HELD it starts nothing (R122, R124). HLD_N high while FILTERING ends the filter and counts HOLD_FILTERED; otherwise it
does nothing (R123, R124). The entry to HELD frees the OPEN entries of the DISCARD groups and makes its HOLD_ON record
(R40, R126), stated with no write stalled. -/
def Obligations.LineFiltersAndTrips : Prop :=
  ∀ (s : State), s.inReset = false →
    (s.hold.state = .clear → s.hold.filter ≠ 0 →
      exec .hldNAsserted s = .next
        { s with hldLow := true, hold := { s.hold with state := .filtering, counter := 0 } }) ∧
    (s.hold.state = .clear → s.hold.filter = 0 →
      ∃ t, exec .hldNAsserted s = .next t ∧ t.hldLow = true ∧ t.holdAct = true ∧ t.flagSet .holdOn = true ∧
        t.hold = { state := .held, counter := 0, cause := .line, suppressed := 0, filter := 0 } ∧
        (s.stall = none →
          t.pool = (s.pool.filter fun e => !decide (e.role = .opened ∧ s.groups[e.group].holdPolicy = .discard)) ∧
          t.log = (s.logRecord 0 s.now (.holdOn (s.pool.length - t.pool.length) .line)).log)) ∧
    (s.hold.state ≠ .clear → exec .hldNAsserted s = .next { s with hldLow := true }) ∧
    (s.hold.state = .filtering →
      exec .hldNDeasserted s = .next
        (State.bump { s with hldLow := false, hold := { s.hold with state := .clear, counter := 0 } }
          .holdFiltered 1)) ∧
    (s.hold.state ≠ .filtering → exec .hldNDeasserted s = .next { s with hldLow := false })

/-- The tick at which the filter counter reaches HOLD_FILTER enters HELD with cause LINE: HOLD_ACT rises, HOLD_ON is
set, the OPEN entries of the DISCARD groups are freed and counted, those of FREEZE groups and all SEALED entries are
kept, and a HOLD_ON record of the entries freed reaches the log (R40, R123, R126, R127). That the row is the whole tick
is the model's choice (log 1), as is that at an earlier tick it does not come about (log 3). The counter is STOPPED and
no write is stalled here. -/
def Obligations.FilterCompletesIntoHeld : Prop :=
  ∀ (s : State), s.inReset = false → s.timebase.running = false → s.stall = none → s.hold.state = .filtering →
    (s.hold.filter ≤ s.hold.counter + 1 →
      ∃ t, exec .filterComplete s = .next t ∧
        t.hold = { s.hold with state := .held, counter := 0, cause := .line, suppressed := 0 } ∧
        t.holdAct = true ∧ t.flagSet .holdOn = true ∧
        t.pool = (s.pool.filter fun e => !decide (e.role = .opened ∧ s.groups[e.group].holdPolicy = .discard)) ∧
        (∀ g : GroupId, t.counter (.discarded g) =
          if s.groups[g].holdPolicy = .discard then satAdd (s.counter (.discarded g)) (s.openCount g)
          else s.counter (.discarded g)) ∧
        t.log = (s.logRecord 0 s.now (.holdOn (s.pool.length - t.pool.length) .line)).log ∧
        t.regions = s.regions ∧ t.responses = s.responses ∧ t.ready = s.ready) ∧
    (s.hold.counter + 1 < s.hold.filter → exec .filterComplete s = .next s)

/-- HOLD_SET enters HELD with cause SOFTWARE from CLEAR and FILTERING, with the entry's discards, flag and HOLD_ON record,
and changes nothing while HELD; it is answered ACK (R125, R126). A stalled write of a DISCARD group is refused at the
entry, and one of a FREEZE group is offered again after the discards (R33, R40). -/
def Obligations.HoldSetEntersHeld : Prop :=
  ∀ (s : State) (a : Byte), s.fresh = true →
    (s.hold.state = .held → exec (.holdSet a) s = .next (s.replied .ack [0, 0])) ∧
    (s.hold.state ≠ .held → s.stall = none →
      ∃ t, exec (.holdSet a) s = .next t ∧
        t.hold = { s.hold with state := .held, counter := 0, cause := .software, suppressed := 0 } ∧
        t.port = Port.taken [0x01, 0, 0] ∧ t.flagSet .holdOn = true ∧
        t.counter .holdFiltered = s.counter .holdFiltered ∧
        t.pool = (s.pool.filter fun e => !decide (e.role = .opened ∧ s.groups[e.group].holdPolicy = .discard)) ∧
        t.log = (s.logRecord 0 s.now (.holdOn (s.pool.length - t.pool.length) .software)).log ∧
        t.groups = s.groups ∧ t.regions = s.regions ∧ t.timebase = s.timebase) ∧
    (∀ w : StalledWrite, s.hold.state ≠ .held → s.stall = some w →
      (s.groups[s.regions[w.region].group].holdPolicy = .discard →
        ∃ t, exec (.holdSet a) s = .next t ∧ t.hold.state = .held ∧ t.stall = none ∧
          t.responses = s.responses ++ [{ tag := w.tag, status := .errStage, data := none, holdsTag := true }] ∧
          t.counter .refusedWrites = satAdd (s.counter .refusedWrites) 1 ∧ t.flagSet .refused = true ∧
          t.pool = (s.pool.filter fun e => !decide (e.role = .opened ∧ s.groups[e.group].holdPolicy = .discard)) ∧
          t.log = (s.logRecord 0 s.now (.holdOn (s.pool.length - t.pool.length) .software)).log) ∧
      (s.groups[s.regions[w.region].group].holdPolicy = .freeze →
        ∃ u : State, u.stall = some w ∧ u.responses = s.responses ∧ u.groups = s.groups ∧ u.regions = s.regions ∧
          u.hold = { s.hold with state := .held, counter := 0, cause := .software, suppressed := 0 } ∧
          u.pool = (s.pool.filter fun e => !decide (e.role = .opened ∧ s.groups[e.group].holdPolicy = .discard)) ∧
          u.forwardQueue = s.forwardQueue ∧ u.log = s.log ∧
          exec (.holdSet a) s = .next (State.replied
            (u.retry.logRecord 0 s.now (.holdOn (s.pool.length - u.pool.length) .software)) .ack [0, 0])))

/-- HOLD_RELEASE by hold state and line (R130): CLEAR is answered ACK with no change; FILTERING, and HELD with the
line asserted, NAK_STATE; HELD with the line deasserted returns to CLEAR with a HOLD_OFF record of the suppressed
total (R131). A retire seal pending at a group whose slot is NONE is then taken (R77), stated for one such group with
no write stalled; pending elsewhere, or while quiescing, it stays pending. -/
def Obligations.HoldReleaseAnswered : Prop :=
  ∀ (s : State) (a : Byte), s.fresh = true →
    (s.hold.state = .clear → exec (.holdRelease a) s = .next (s.replied .ack [0, 0])) ∧
    (s.hold.state = .filtering → exec (.holdRelease a) s = .next (s.replied .nakState [])) ∧
    (s.hold.state = .held → s.hldLow = true → exec (.holdRelease a) s = .next (s.replied .nakState [])) ∧
    (∀ u : State, s.hold.state = .held → s.hldLow = false →
      u = State.logRecord { s with hold := { s.hold with state := .clear } } 0 s.now (.holdOff s.hold.suppressed) →
      ((∀ g : GroupId, s.groups[g].pendingRetire = false ∨ s.groups[g].slot ≠ none) ∨ s.quiescing = true →
        exec (.holdRelease a) s = .next (u.replied .ack [0, 0])) ∧
      (∀ g : GroupId, s.quiescing = false → s.stall = none → s.groups[g].pendingRetire = true →
        s.groups[g].slot = none →
        (∀ h : GroupId, h ≠ g → s.groups[h].pendingRetire = false ∨ s.groups[h].slot ≠ none) →
        ∃ t, exec (.holdRelease a) s = .next t ∧ t.port = Port.taken [0x01, 0, 0] ∧
          t.hold = { s.hold with state := .clear } ∧
          (0 < s.openCount g → SealLeaves u t g .retire s.now ∧ t.pool = s.pool.map fun e =>
            if e.group = g ∧ e.role = .opened then { e with role := .sealed, issued := false } else e) ∧
          (s.openCount g = 0 → EmptySealLeaves u t g .retire s.now)))

/-- HARDWARE_RESET puts every block at its hardware reset values and answers nothing in flight; with RST_N deasserted
again the part is right after reset, FILTERING at once if HLD_N is low, its receiver BLOCKED if CS_N is low (R1, R16,
R19, R49, R120, R124, R151, R159, R171, R183). The lines, the queue of commands and the free choices are not the
part's (logs 7 and 8). -/
def Obligations.HardwareResetAndItsEnd : Prop :=
  ∀ s : State, ∃ u : State, exec .hardwareReset s = .next u ∧
    u.inReset = true ∧ u.holdAct = false ∧ u.intAsserted = false ∧
    exec .resetEnd u = .next
      { State.reset with
        hldLow := s.hldLow
        csLow := s.csLow
        pending := s.pending
        draws := s.draws
        hold := { Hold.reset with state := if s.hldLow then .filtering else .clear }
        port := { Port.reset with rx := if s.csLow then .blocked else .idle } }

/-! ### Frames -/

/-- CS_N falling opens a frame, CS_N rising ends it: what was received and what was left of a reply is discarded, and
nothing else changes (R169, R170, R171). -/
def Obligations.ChipSelectBoundsFrames : Prop :=
  ∀ s : State, s.inReset = false →
    (s.port.rx = .idle →
      exec .csNFall s = .next
        { s with csLow := true, port := { rx := .request, got := [], reply := [], sent := 0, miso := none } }) ∧
    exec .csNRise s = .next
      { s with csLow := false, port := { rx := .idle, got := [], reply := [], sent := 0, miso := none } }

/-- Decode of encode: the bytes of a request name that request, with every operand at every value (Tables 10-5 and
10-6), and bytes that name nothing are a NAK_FRAME (R170). The bytes are the kind, the class or action code and the
operands, each quantity with its low byte first (R169). -/
def Obligations.RequestBytesNameTheirFrame : Prop :=
  (∀ f : Frame, (∀ b : BadRequest, f = .nak b → b.wellFormed = true) → parseRequest f.bytes = some f) ∧
  (∀ v : BitVec 16, bytes16 v = [BitVec.ofNat 8 v.toNat, BitVec.ofNat 8 (v.toNat / 2 ^ 8)]) ∧
  (∀ v : BitVec 32, bytes32 v = [BitVec.ofNat 8 v.toNat, BitVec.ofNat 8 (v.toNat / 2 ^ 8),
    BitVec.ofNat 8 (v.toNat / 2 ^ 16), BitVec.ofNat 8 (v.toNat / 2 ^ 24)]) ∧
  ∀ (r : Byte) (v : BitVec 32) (m : BitVec 16) (fr : RegionFields) (fg : GroupFields) (fw : WatchFields),
    (Frame.regRead r).bytes = [0x11, r] ∧ (Frame.regWrite r v).bytes = [0x12, r] ++ bytes32 v ∧
    (Frame.readRegion r).bytes = [0x13, 1, r] ∧ (Frame.readGroup r).bytes = [0x13, 2, r] ∧
    (Frame.readWatch r).bytes = [0x13, 3, r] ∧
    (Frame.writeRegion r fr).bytes =
      [0x14, 1, r] ++ bytes32 fr.base ++ [fr.sizeCode, fr.group, fr.view, fr.policy] ∧
    (Frame.writeGroup r fg).bytes =
      [0x14, 2, r, fg.source, fg.divider, fg.quota, fg.holdPolicy, fg.pressureSeal] ∧
    (Frame.writeWatch r fw).bytes =
      [0x14, 3, r] ++ bytes32 fw.low ++ bytes32 fw.high ++ [fw.kinds, fw.decimation, fw.enable] ∧
    (∀ p ∈ ([(1, .timerStart r), (2, .timerStop r), (3, .timerRestart r), (4, .publish r), (5, .discard r),
        (6, .regionEnable r), (7, .regionRetire r), (8, .holdSet r), (9, .holdRelease r), (10, .logClear r),
        (12, .countersClear r), (13, .datapathReset r)] : List (Byte × Frame)), p.2.bytes = [0x15, p.1, r]) ∧
    (Frame.eventAck m).bytes = [0x15, 11] ++ bytes16 m ∧ Frame.logPop.bytes = [0x16] ∧ Frame.logPeek.bytes = [0x17] ∧
    (Frame.probe v).bytes = [0x18] ++ bytes32 v ∧ Frame.status.bytes = [0x19] ∧
    (Frame.nak (.kind r)).bytes = [r] ∧ (Frame.nak (.readClass r)).bytes = [0x13, r] ∧
    (Frame.nak (.writeClass r)).bytes = [0x14, r] ∧ (Frame.nak (.actionCode r)).bytes = [0x15, r]

/-- Eight SCLK periods a byte, a request clocked into a fresh frame is taken with its last byte and not before (R169,
R170); the row of the table that names the frame does the same in one command. -/
def Obligations.ClockedRequestIsTaken : Prop :=
  ∀ (f : Frame) (s : State), (∀ b : BadRequest, f = .nak b → b.wellFormed = true) → s.fresh = true →
    f.bytes.foldl
        (fun (o : Host.Outcome State Fault Refusal) b => match o with
          | .next u => exec (.sclkByte b) u
          | x => x)
        (.next s) = .next (s.takeFrame f) ∧
    s.frameRow f = s.takeFrame f ∧
    (∀ l : List Byte, l ≠ [] → l <+: f.bytes → l ≠ f.bytes →
      l.foldl State.clockByte s = { s with port := { s.port with got := l, miso := some 0 } })

/-- After the request comes the pad byte, then the reply byte by byte, and then 0: the state changes in the port alone
(R169). A reply is its status byte and its payload, standing whole in the port (Table 10-1, R172). -/
def Obligations.RepliesAreShiftedOut : Prop :=
  (∀ (s : State) (st : Status) (l : List Byte), s.replied st l = { s with
    port := { rx := .pad, got := [], sent := 0, miso := some 0
              reply := (match st with
                | .ack => 0x01#8 | .nakState => 0x02#8 | .nakRange => 0x03#8 | .nakOverlap => 0x04#8
                | .nakBusy => 0x05#8 | .nakFrame => 0x06#8 | .empty => 0x07#8) :: l } }) ∧
  ∀ (s : State) (b : Byte), s.inReset = false →
    (s.port.rx = .pad →
      exec (.sclkByte b) s = .next { s with port := { s.port with rx := .reply, miso := some 0 } }) ∧
    (∀ x : Byte, s.port.rx = .reply → s.port.reply[s.port.sent]? = some x →
      exec (.sclkByte b) s = .next
        { s with port := { s.port with
            rx := if s.port.sent + 1 = s.port.reply.length then .spent else .reply
            sent := s.port.sent + 1
            miso := some x } }) ∧
    (s.port.rx = .spent → exec (.sclkByte b) s = .next { s with port := { s.port with miso := some 0 } }) ∧
    (s.port.rx = .idle ∨ s.port.rx = .blocked → exec (.sclkByte b) s = .next s)

/-! ### Registers -/

/-- REG_READ answers ACK with the register's value, narrow quantities extended with zeros, and changes no state; a
number that names no register is answered NAK_RANGE, and a NAK_FRAME frame NAK_FRAME, with no state changed (R170,
R173, Table 10-3). Each of the 26 counters has the number that Table 10-3 gives its name (R183). HOLD_STATE is stated
where its cause bit is settled: while HELD, or with cause LINE (log 9). -/
def Obligations.RegisterReadsReply : Prop :=
  ∀ (s : State), s.fresh = true →
    (∀ p ∈ ([(0x00, BitVec.ofNat 32 (TimerMode.code s.timebase.mode)), (0x01, BitVec.ofNat 32 s.timebase.prescale),
        (0x02, BitVec.ofNat 32 s.timebase.limitShadow), (0x03, BitVec.ofNat 32 s.timebase.markShadow),
        (0x04, BitVec.ofNat 32 (SyncMode.code s.timebase.syncMode)), (0x05, BitVec.ofNat 32 s.hold.filter),
        (0x06, BitVec.ofNat 32 s.stallLimit), (0x07, s.log.kinds.zeroExtend 32),
        (0x08, BitVec.ofNat 32 s.log.watermark), (0x09, s.events.enables.zeroExtend 32),
        (0x10, BitVec.ofNat 32 s.timebase.count), (0x11, if s.timebase.dir = .down then 1 else 0),
        (0x12, s.timebase.period), (0x13, if s.timebase.running then 1 else 0),
        (0x15, BitVec.ofNat 32 s.pool.length), (0x17, s.events.flags.zeroExtend 32),
        (0x18, BitVec.ofNat 32 s.log.records.length)] : List (Byte × BitVec 32)),
      exec (.regRead p.1) s = .next (s.replied .ack (bytes32 p.2))) ∧
    (s.hold.state = .held ∨ s.hold.cause = .line →
      exec (.regRead 0x14) s = .next (s.replied .ack [
        (match s.hold.state with | .clear => 0#8 | .filtering => 1#8 | .held => 2#8) |||
        (if s.hold.cause = .software then 4#8 else 0#8) ||| (if s.hldLow then 8#8 else 0#8), 0, 0, 0])) ∧
    (exec (.regRead 0x16) s = .next (s.replied .ack [
        (match s.stall with | none => 0#8 | some w => if w.cause = .noEntry then 1#8 else 2#8), 0, 0, 0])) ∧
    (∀ (n : Byte) (k : Fin 26), n.toNat = 0x20 + k.val →
      exec (.regRead n) s = .next (s.replied .ack (bytes32 (BitVec.ofNat 32 s.events.counters[k])))) ∧
    (∀ (n : Byte) (c : Counter),
      n.toNat = (match c with
        | .seals g => 0x20 + g.val
        | .overruns g => 0x24 + g.val
        | .suppressed g => 0x28 + g.val
        | .discarded g => 0x2C + g.val
        | .drainFaults g => 0x30 + g.val
        | .stallTimeouts => 0x34
        | .refusedWrites => 0x35
        | .logLostTotal => 0x36
        | .protocolErrors => 0x37
        | .strayResponses => 0x38
        | .holdFiltered => 0x39) →
      exec (.regRead n) s = .next (s.replied .ack (bytes32 (BitVec.ofNat 32 (s.counter c))))) ∧
    (∀ n : Byte, (0x09 < n.toNat ∧ n.toNat < 0x10) ∨ (0x18 < n.toNat ∧ n.toNat < 0x20) ∨ 0x39 < n.toNat →
      exec (.regRead n) s = .next (s.replied .nakRange [])) ∧
    (∀ b : BadRequest, exec (.nakFrame b) s = .next (s.replied .nakFrame []))

/-- The timebase's registers: TIMER_MODE is written while STOPPED with a value that names a mode (R50); PRESCALE takes
the nine divisors and leaves the interval in progress (R47); PERIOD_LIMIT and MARK set their shadows and, while
STOPPED, load at once, a count above the new limit being set to 0, going up (R51, R52); SYNC_MODE takes its three
values (R61). Any other value is answered NAK_RANGE and changes nothing. The codes of the modes are those of Table
10-3. -/
def Obligations.TimebaseRegisterWrites : Prop :=
  (TimerMode.code .up = 0 ∧ TimerMode.code .updown = 1 ∧ TimerMode.code .oneshot = 2 ∧
    SyncMode.code .ignore = 0 ∧ SyncMode.code .event = 1 ∧ SyncMode.code .restart = 2) ∧
  ∀ (s : State) (v : BitVec 32), s.fresh = true →
    (s.timebase.running = true → exec (.writeTimerMode v) s = .next (s.replied .nakState [])) ∧
    (s.timebase.running = false → 3 ≤ v.toNat → exec (.writeTimerMode v) s = .next (s.replied .nakRange [])) ∧
    (s.timebase.running = false → ∀ m : TimerMode, v.toNat = TimerMode.code m →
      exec (.writeTimerMode v) s =
        .next (State.replied { s with timebase := { s.timebase with mode := m } } .ack [])) ∧
    (v.toNat ∈ [1, 2, 4, 8, 16, 32, 64, 128, 256] →
      exec (.writePrescale v) s =
        .next (State.replied { s with timebase := { s.timebase with prescale := v.toNat } } .ack [])) ∧
    (v.toNat ∉ [1, 2, 4, 8, 16, 32, 64, 128, 256] →
      exec (.writePrescale v) s = .next (s.replied .nakRange [])) ∧
    (1 ≤ v.toNat → v.toNat ≤ 65535 →
      exec (.writePeriodLimit v) s = .next (State.replied
        { s with timebase :=
          if s.timebase.running then { s.timebase with limitShadow := v.toNat }
          else if v.toNat < s.timebase.count then
            { s.timebase with limitShadow := v.toNat, limit := v.toNat, count := 0, dir := .up }
          else { s.timebase with limitShadow := v.toNat, limit := v.toNat } } .ack [])) ∧
    (v.toNat = 0 ∨ 65535 < v.toNat → exec (.writePeriodLimit v) s = .next (s.replied .nakRange [])) ∧
    (v.toNat ≤ 65535 →
      exec (.writeMark v) s = .next (State.replied
        { s with timebase :=
          if s.timebase.running then { s.timebase with markShadow := v.toNat }
          else { s.timebase with markShadow := v.toNat, mark := v.toNat } } .ack [])) ∧
    (65535 < v.toNat → exec (.writeMark v) s = .next (s.replied .nakRange [])) ∧
    (∀ m : SyncMode, v.toNat = SyncMode.code m →
      exec (.writeSyncMode v) s =
        .next (State.replied { s with timebase := { s.timebase with syncMode := m } } .ack [])) ∧
    (3 ≤ v.toNat → exec (.writeSyncMode v) s = .next (s.replied .nakRange []))

/-- The other writable registers take exactly the values of Table 10-3 (R34, R121, R160, R163, R181). A REG_WRITE is
the write of the register it numbers, and one of a read-only register or of no register is answered NAK_RANGE and
changes nothing (R174). -/
def Obligations.OtherRegisterWrites : Prop :=
  ∀ (s : State) (v : BitVec 32), s.fresh = true →
    (v.toNat ∈ [0, 4, 8, 16, 32] →
      exec (.writeHoldFilter v) s =
        .next (State.replied { s with hold := { s.hold with filter := v.toNat } } .ack [])) ∧
    (v.toNat ∉ [0, 4, 8, 16, 32] → exec (.writeHoldFilter v) s = .next (s.replied .nakRange [])) ∧
    (1 ≤ v.toNat → v.toNat ≤ 65535 →
      exec (.writeStallLimit v) s = .next (State.replied { s with stallLimit := v.toNat } .ack [])) ∧
    (v.toNat = 0 ∨ 65535 < v.toNat → exec (.writeStallLimit v) s = .next (s.replied .nakRange [])) ∧
    (v.toNat < 2 ^ 7 →
      exec (.writeLogKinds v) s =
        .next (State.replied { s with log := { s.log with kinds := v.truncate 7 } } .ack [])) ∧
    (2 ^ 7 ≤ v.toNat → exec (.writeLogKinds v) s = .next (s.replied .nakRange [])) ∧
    (1 ≤ v.toNat → v.toNat ≤ 32 →
      exec (.writeLogWatermark v) s =
        .next (State.replied { s with log := { s.log with watermark := v.toNat } } .ack [])) ∧
    (v.toNat = 0 ∨ 32 < v.toNat → exec (.writeLogWatermark v) s = .next (s.replied .nakRange [])) ∧
    (v.toNat < 2 ^ 16 →
      exec (.writeEventEnable v) s =
        .next (State.replied { s with events := { s.events with enables := v.truncate 16 } } .ack [])) ∧
    (2 ^ 16 ≤ v.toNat → exec (.writeEventEnable v) s = .next (s.replied .nakRange [])) ∧
    (∀ p ∈ ([(0x00, .writeTimerMode v), (0x01, .writePrescale v), (0x02, .writePeriodLimit v), (0x03, .writeMark v),
        (0x04, .writeSyncMode v), (0x05, .writeHoldFilter v), (0x06, .writeStallLimit v), (0x07, .writeLogKinds v),
        (0x08, .writeLogWatermark v), (0x09, .writeEventEnable v)] : List (Byte × Instr)),
      ∃ t, exec (.regWrite p.1 v) s = .next t ∧ exec p.2 s = .next t) ∧
    (∀ n : Byte, 0x09 < n.toNat → exec (.regWrite n v) s = .next (s.replied .nakRange []))

/-! ### Records -/

/-- R2: the four tests of a RECORD_WRITE of class REGION in their order, and the replacement of the five fields, under
a quiesce and a hold as at any other time. -/
def Obligations.RegionRecordsWritten : Prop :=
  ∀ (s : State) (i : Byte) (f : RegionFields), s.fresh = true →
    (8 ≤ i.toNat → exec (.recordWriteRegion i f) s = .next (s.replied .nakRange [])) ∧
    (∀ r : RegionId, i.toNat = r.val → s.regions[r].state ≠ .off →
      exec (.recordWriteRegion i f) s = .next (s.replied .nakState [])) ∧
    (∀ r : RegionId, i.toNat = r.val → s.regions[r].state = .off →
      (f.sizeCode.toNat < 8 ∨ 24 < f.sizeCode.toNat ∨ f.base.toNat % 2 ^ f.sizeCode.toNat ≠ 0 ∨
          4 ≤ f.group.toNat ∨ 2 ≤ f.view.toNat ∨ 2 ≤ f.policy.toNat →
        exec (.recordWriteRegion i f) s = .next (s.replied .nakRange [])) ∧
      (∀ (g : GroupId) (v : View) (p : FullPolicy), 8 ≤ f.sizeCode.toNat → f.sizeCode.toNat ≤ 24 →
        f.base.toNat % 2 ^ f.sizeCode.toNat = 0 → f.group.toNat = g.val → f.view.toNat = View.code v →
        f.policy.toNat = FullPolicy.code p →
        exec (.recordWriteRegion i f) s = .next (State.replied
          { s with
              regions := s.regions.set r
                { base := f.base, sizeCode := f.sizeCode.toNat, group := g, view := v, policy := p, state := .off } }
          .ack [])))

/-- R3: a RECORD_READ of class REGION is answered with all six fields as they stand, or NAK_RANGE, and changes no
state. Their codes are those of Table 10-6. -/
def Obligations.RegionRecordsRead : Prop :=
  (View.code .committed = 0 ∧ View.code .staged = 1 ∧ FullPolicy.code .stall = 0 ∧ FullPolicy.code .reject = 1 ∧
    RegionState.code .off = 0 ∧ RegionState.code .staging = 1 ∧ RegionState.code .retireWait = 2 ∧
    RegionState.code .retireDrain = 3) ∧
  ∀ (s : State) (i : Byte), s.fresh = true →
    (8 ≤ i.toNat → exec (.recordReadRegion i) s = .next (s.replied .nakRange [])) ∧
    (∀ r : RegionId, i.toNat = r.val →
      exec (.recordReadRegion i) s = .next (s.replied .ack (bytes32 s.regions[r].base ++
        [byteOf s.regions[r].sizeCode, byteOf s.regions[r].group, byteOf (View.code s.regions[r].view),
         byteOf (FullPolicy.code s.regions[r].policy), byteOf (RegionState.code s.regions[r].state)])))

/-- A RECORD_WRITE of class GROUP by R17's tests, with the divider count set to 0 and, where it raises the quota, a
retry of the stall slot (R17, R33); a RECORD_READ with the five fields and the group status, the sealed fields reading 0
while the slot is NONE (R18). The codes of the fields are those of Table 10-6. -/
def Obligations.GroupRecordsWrittenAndRead : Prop :=
  (Source.code .none = 0 ∧ Source.code .limit = 1 ∧ Source.code .zero = 2 ∧ Source.code .peak = 3 ∧
    Source.code .markUp = 4 ∧ Source.code .markDown = 5 ∧ Source.code .markAny = 6 ∧ Source.code .sync = 7 ∧
    HoldPolicy.code .freeze = 0 ∧ HoldPolicy.code .discard = 1) ∧
  ∀ (s : State) (i : Byte) (f : GroupFields), s.fresh = true →
    (4 ≤ i.toNat →
      exec (.recordWriteGroup i f) s = .next (s.replied .nakRange []) ∧
      exec (.recordReadGroup i) s = .next (s.replied .nakRange [])) ∧
    (∀ g : GroupId, i.toNat = g.val →
      (8 ≤ f.source.toNat ∨ f.divider.toNat = 0 ∨ 16 < f.divider.toNat ∨ f.quota.toNat = 0 ∨ 64 < f.quota.toNat ∨
          2 ≤ f.holdPolicy.toNat →
        exec (.recordWriteGroup i f) s = .next (s.replied .nakRange [])) ∧
      (∀ (src : Source) (hp : HoldPolicy), f.source.toNat = Source.code src → f.holdPolicy.toNat = HoldPolicy.code hp →
        1 ≤ f.divider.toNat → f.divider.toNat ≤ 16 → 1 ≤ f.quota.toNat → f.quota.toNat ≤ 64 →
        (s.hold.state = .held → hp ≠ s.groups[g].holdPolicy →
          exec (.recordWriteGroup i f) s = .next (s.replied .nakState [])) ∧
        (s.hold.state ≠ .held ∨ hp = s.groups[g].holdPolicy → f.quota.toNat < s.openCount g →
          exec (.recordWriteGroup i f) s = .next (s.replied .nakRange [])) ∧
        (s.hold.state ≠ .held ∨ hp = s.groups[g].holdPolicy → s.openCount g ≤ f.quota.toNat →
          s.stall = none ∨ f.quota.toNat ≤ s.groups[g].quota →
          exec (.recordWriteGroup i f) s = .next (State.replied
            { s with
                groups := s.groups.set g
                  { s.groups[g] with
                  source := src, divider := f.divider.toNat, quota := f.quota.toNat, holdPolicy := hp,
                  pressureSeal := f.pressureSeal.getLsbD 0, dividerCount := 0 } }
            .ack [])) ∧
        (s.hold.state ≠ .held ∨ hp = s.groups[g].holdPolicy → s.openCount g ≤ f.quota.toNat →
          s.groups[g].quota < f.quota.toNat →
          exec (.recordWriteGroup i f) s = .next (State.replied
            (State.retry { s with
                groups := s.groups.set g
                  { s.groups[g] with
                  source := src, divider := f.divider.toNat, quota := f.quota.toNat, holdPolicy := hp,
                  pressureSeal := f.pressureSeal.getLsbD 0, dividerCount := 0 } })
            .ack []))) ∧
      (exec (.recordReadGroup i) s = .next (s.replied .ack (
        [byteOf (Source.code s.groups[g].source), byteOf s.groups[g].divider, byteOf s.groups[g].quota,
         byteOf (HoldPolicy.code s.groups[g].holdPolicy), if s.groups[g].pressureSeal then 1 else 0] ++
        bytes16 s.groups[g].openGen ++
        [byteOf (s.openCount g), byteOf s.groups[g].dividerCount, if s.groups[g].pendingRetire then 1 else 0] ++
        (match s.groups[g].slot with
          | none => [0, 0, 0, 0, 0]
          | some sl =>
            [match sl.phase with | .fenced => 1 | .ready => 2 | .draining => 3] ++ bytes16 sl.gen ++
              [byteOf sl.entries, byteOf sl.fence])))))

/-- A RECORD_WRITE of class WATCH by R155's tests, with the decimation counter set to 0, and a RECORD_READ with all six
fields (R155). The codes of the kinds are those of Table 10-6. -/
def Obligations.WatchRecordsWrittenAndRead : Prop :=
  (WatchKinds.code .read = 0 ∧ WatchKinds.code .write = 1 ∧ WatchKinds.code .both = 2) ∧
  ∀ (s : State) (i : Byte) (f : WatchFields), s.fresh = true →
    (4 ≤ i.toNat →
      exec (.recordWriteWatch i f) s = .next (s.replied .nakRange []) ∧
      exec (.recordReadWatch i) s = .next (s.replied .nakRange [])) ∧
    (∀ w : Fin 4, i.toNat = w.val →
      (3 ≤ f.kinds.toNat ∨ f.decimation.toNat ∉ [1, 4, 16] ∨ f.high.toNat < f.low.toNat →
        exec (.recordWriteWatch i f) s = .next (s.replied .nakRange [])) ∧
      (∀ k : WatchKinds, f.kinds.toNat = WatchKinds.code k → f.decimation.toNat ∈ [1, 4, 16] →
        f.low.toNat ≤ f.high.toNat →
        exec (.recordWriteWatch i f) s = .next (State.replied
          { s with
              watches := s.watches.set w
                { low := f.low, high := f.high, kinds := k, decimation := f.decimation.toNat,
                  enabled := f.enable.getLsbD 0, counter := 0 } }
          .ack [])) ∧
      exec (.recordReadWatch i) s = .next (s.replied .ack (
        bytes32 s.watches[w].low ++ bytes32 s.watches[w].high ++
        [byteOf (WatchKinds.code s.watches[w].kinds), byteOf s.watches[w].decimation,
         if s.watches[w].enabled then 1 else 0, byteOf s.watches[w].counter])))

/-! ### Actions -/

/-- TIMER_START (R62), TIMER_STOP (R63) and TIMER_RESTART (R64) by run state. -/
def Obligations.TimerActionsByRunState : Prop :=
  ∀ (s : State) (a : Byte), s.fresh = true →
    (s.timebase.running = false →
      exec (.timerStart a) s = .next (State.replied
        { s with timebase := { s.timebase with
            count := 0, dir := .up, running := true, limit := s.timebase.limitShadow,
            mark := s.timebase.markShadow } } .ack [0, 0]) ∧
      exec (.timerStop a) s = .next (s.replied .ack [0, 0]) ∧
      exec (.timerRestart a) s = .next (s.replied .nakState [])) ∧
    (s.timebase.running = true →
      exec (.timerStart a) s = .next (s.replied .nakState []) ∧
      exec (.timerStop a) s = .next (State.replied
        { s with timebase := { s.timebase with running := false } } .ack [0, 0]) ∧
      exec (.timerRestart a) s = .next (State.replied
        { s with timebase := { s.timebase with
            count := 0, dir := .up, limit := s.timebase.limitShadow, mark := s.timebase.markShadow } }
        .ack [0, 0]))

/-- PUBLISH by R74: NAK_RANGE for bits 4 to 7, NAK_BUSY while quiescing, a taken mask of 0 under a hold and for a mask of
0, which changes nothing. A named group with its sealed slot NONE and entries to publish seals, behind the fence set that
the earlier requests to its windows make (R81, R84, R86 to R90), its divider count set to 0, and its bit is in the taken
mask; an empty open generation is complete at once, and a retire seal pending behind it too (R77, R83); a named group
with its slot occupied is left as it is. This for any mask with no write stalled, whatever the order among the named
groups (free, log 2); and for one named group with the records, the marks and the queue as well, where a stalled write is
retried after the seal (R33, R81). A group that is not named or not taken keeps its record: in states no run reaches its
slot may, READY at the head of the ready queue, drain (R90). Under a hold the model's count of free choices may move,
and nothing else (log 2). -/
def Obligations.PublishSealsNamedGroups : Prop :=
  ∀ (s : State) (m : Byte), s.fresh = true →
    (16 ≤ m.toNat → exec (.publish m) s = .next (s.replied .nakRange [])) ∧
    (m.toNat < 16 → s.quiescing = true → exec (.publish m) s = .next (s.replied .nakBusy [])) ∧
    (m.toNat < 16 → s.quiescing = false → s.hold.state = .held →
      ∃ n : Nat, exec (.publish m) s = .next (State.replied { s with draws := n } .ack [0, 0])) ∧
    (s.quiescing = false → exec (.publish 0) s = .next (s.replied .ack [0, 0])) ∧
    (m.toNat < 16 → s.quiescing = false → s.hold.state ≠ .held → s.stall = none →
      ∃ (t : State) (k : Byte), exec (.publish m) s = .next t ∧ t.port = Port.taken [0x01, k, 0] ∧
        (∀ j : Nat, k.getLsbD j = true ↔ ∃ g : GroupId, g.val = j ∧ m.getLsbD j = true ∧ s.groups[g].slot = none) ∧
        t.pool = (s.pool.map fun e => if k.getLsbD e.group.val = true ∧ e.role = .opened then
          { e with role := .sealed, issued := false } else e) ∧
        t.stall = none ∧ t.responses = s.responses ∧ t.timebase = s.timebase ∧ t.hold = s.hold ∧
        t.drainTags = s.drainTags ∧ t.channel = s.channel ∧
        ∀ g : GroupId,
          (k.getLsbD g.val = false → t.counter (.seals g) = s.counter (.seals g) ∧
            (t.groups[g] = s.groups[g] ∨ (s.phase g = some .ready ∧ t.groups[g] =
              { s.groups[g] with slot := s.groups[g].slot.map fun sl => { sl with phase := .draining } }))) ∧
          (k.getLsbD g.val = true → 0 < s.openCount g →
            t.counter (.seals g) = satAdd (s.counter (.seals g)) 1 ∧
            ∃ p : SlotPhase, (p = .fenced ↔ 0 < s.fenceMembers g) ∧ t.groups[g] =
              { s.groups[g] with
                slot := some { phase := p, gen := s.groups[g].openGen, entries := s.openCount g,
                               fence := s.fenceMembers g, written := 0, failed := 0, elapsed := 0 }
                openGen := s.groups[g].openGen + 1, dividerCount := 0 }) ∧
          (k.getLsbD g.val = true → s.openCount g = 0 → s.groups[g].pendingRetire = false →
            t.counter (.seals g) = satAdd (s.counter (.seals g)) 1 ∧ t.flagSet (.done g) = true ∧ t.groups[g] =
              { s.groups[g] with slot := none, openGen := s.groups[g].openGen + 1, dividerCount := 0 }) ∧
          (k.getLsbD g.val = true → s.openCount g = 0 → s.groups[g].pendingRetire = true →
            t.counter (.seals g) = satAdd (satAdd (s.counter (.seals g)) 1) 1 ∧ t.flagSet (.done g) = true ∧
            t.groups[g] =
              { s.groups[g] with
                slot := none, openGen := s.groups[g].openGen + 1 + 1, dividerCount := 0, pendingRetire := false })) ∧
    (∀ (g : GroupId) (x : UTag), s.inFence g x = true ↔
      (∃ a : Addr, ((∃ q ∈ s.forwardQueue, q.tag = x ∧ q.addr = a) ∨ (∃ o, s.outstanding[x] = some o ∧ o.addr = a)) ∧
        ∃ r : RegionId, s.regions[r].group = g ∧ s.regions[r].state ≠ .off ∧ s.regions[r].contains a = true)) ∧
    (∀ g : GroupId, m = BitVec.twoPow 8 g.val → s.quiescing = false → s.hold.state ≠ .held →
      (∀ sl : SealedSlot, s.groups[g].slot = some sl → exec (.publish m) s = .next (s.replied .ack [0, 0])) ∧
      (s.groups[g].slot = none → 0 < s.openCount g ∨ s.groups[g].pendingRetire = false →
        ∃ v : State, exec (.publish m) s = .next (State.replied v.retry .ack [m, 0]) ∧
          (0 < s.openCount g → SealLeaves s v g .manual s.now ∧ v.pool = s.pool.map fun e =>
            if e.group = g ∧ e.role = .opened then { e with role := .sealed, issued := false } else e) ∧
          (s.openCount g = 0 → EmptySealLeaves s v g .manual s.now) ∧
          v.stall = s.stall ∧ v.responses = s.responses) ∧
      (s.groups[g].slot = none → s.stall = none → s.openCount g = 0 → s.groups[g].pendingRetire = false →
        ∃ t : State, exec (.publish m) s = .next t ∧ t.port = Port.taken [0x01, m, 0] ∧
          EmptySealLeaves s t g .manual s.now ∧ t.groups[g].dividerCount = 0) ∧
      (s.groups[g].slot = none → s.stall = none → 0 < s.openCount g →
        ∃ (t : State) (sl : SealedSlot), exec (.publish m) s = .next t ∧ t.port = Port.taken [0x01, m, 0] ∧
          SealLeaves s t g .manual s.now ∧
          t.groups[g].slot = some sl ∧ sl.gen = s.groups[g].openGen ∧ sl.entries = s.openCount g ∧
          sl.written = 0 ∧ sl.failed = 0 ∧ sl.elapsed = 0 ∧
          t.groups[g].openGen = s.groups[g].openGen + 1 ∧ t.groups[g].dividerCount = 0 ∧
          t.counter (.seals g) = satAdd (s.counter (.seals g)) 1 ∧
          (∀ h : GroupId, h ≠ g → t.groups[h].openGen = s.groups[h].openGen ∧
            t.groups[h].dividerCount = s.groups[h].dividerCount) ∧
          t.pool = s.pool.map fun e =>
            if e.group = g ∧ e.role = .opened then { e with role := .sealed, issued := false } else e))

/-- DISCARD by R38: NAK_RANGE for bits 4 to 7, NAK_BUSY while quiescing; otherwise the OPEN entries of the named groups
are freed and counted in DISCARDED(g), and groups, SEALED entries and regions are as they were; where entries were
freed the stall slot is retried once. A retry judges the stalled write by its region as it stands: OFF forwards it,
RETIRE_DRAIN keeps it with that cause, and STAGING or RETIRE_WAIT offers it to the pool, where it merges or allocates
and is answered OK, or stays, with a PRESSURE request where its group asks for one; the seal of that request makes a
second retry (R10, R24 to R27, R29, R33, R75). An entry's lanes outside its mask are 0 (the model's choice, log 11). -/
def Obligations.DiscardFreesNamedGroups : Prop :=
  (∀ (s : State) (m : Byte), s.fresh = true →
    (16 ≤ m.toNat → exec (.discard m) s = .next (s.replied .nakRange [])) ∧
    (m.toNat < 16 → s.quiescing = true → exec (.discard m) s = .next (s.replied .nakBusy [])) ∧
    (m.toNat < 16 → s.quiescing = false →
      ∃ u : State, exec (.discard m) s =
          .next (State.replied (if u.pool.length < s.pool.length then u.retry else u) .ack [0, 0]) ∧
        u.pool = (s.pool.filter fun e => !(decide (e.role = .opened) && m.getLsbD e.group.val)) ∧
        (∀ g : GroupId, u.counter (.discarded g) =
          if m.getLsbD g.val then satAdd (s.counter (.discarded g)) (s.openCount g)
          else s.counter (.discarded g)) ∧
        u.stall = s.stall ∧ u.responses = s.responses ∧
        u.groups = s.groups ∧ u.regions = s.regions ∧ u.log = s.log ∧ u.events.flags = s.events.flags ∧
        u.timebase = s.timebase ∧ u.hold = s.hold)) ∧
  (∀ u : State, u.stall = none → u.retry = u) ∧
  (∀ (u : State) (w : StalledWrite) (g : GroupId), u.stall = some w → u.regions[w.region].group = g →
    (u.regions[w.region].state = .off →
      u.retry = { u with
        stall := none
        forwardQueue := u.forwardQueue ++
          [{ tag := w.tag, kind := .write, addr := w.addr, size := w.size, data := w.data, mark := none }] }) ∧
    (u.regions[w.region].state = .retireDrain → u.retry = { u with stall := some { w with cause := .retireDrain } }) ∧
    (u.regions[w.region].state = .staging ∨ u.regions[w.region].state = .retireWait →
      (u.findEntry g .opened (doubleword w.addr) ≠ none →
        u.retry = { u with
          stall := none
          pool := u.pool.map fun e =>
            if e.group = g ∧ e.role = .opened ∧ e.addr = doubleword w.addr then
              e.merge (laneMask w.addr w.size) w.data else e
          responses := u.responses ++ [{ tag := w.tag, status := .ok, data := none, holdsTag := true }] }) ∧
      (u.findEntry g .opened (doubleword w.addr) = none → u.pool.length < 64 → u.openCount g < u.groups[g].quota →
        u.retry = { u with
          stall := none
          pool := u.pool ++
            [{ addr := doubleword w.addr, data := maskLanes (laneMask w.addr w.size) w.data,
               mask := laneMask w.addr w.size, group := g, role := .opened, arrival := u.openCount g,
               issued := false }]
          responses := u.responses ++ [{ tag := w.tag, status := .ok, data := none, holdsTag := true }] }) ∧
      (u.findEntry g .opened (doubleword w.addr) = none → 64 ≤ u.pool.length ∨ u.groups[g].quota ≤ u.openCount g →
        (u.groups[g].pressureSeal = false ∨ u.openCount g = 0 ∨ u.hold.state = .held ∨ u.quiescing = true ∨
            u.groups[g].slot ≠ none → u.retry = u) ∧
        (u.groups[g].pressureSeal = true → 0 < u.openCount g → u.hold.state ≠ .held → u.quiescing = false →
          u.groups[g].slot = none →
          SealLeaves u u.retry g .pressure u.now ∧
          ∀ sealed : List Entry,
            sealed = (u.pool.map fun e =>
              if e.group = g ∧ e.role = .opened then { e with role := .sealed, issued := false } else e) →
            (u.regions[w.region].state = .staging → 64 ≤ u.pool.length →
              u.retry.stall = some w ∧ u.retry.pool = sealed ∧ u.retry.responses = u.responses) ∧
            (u.regions[w.region].state = .retireWait →
              u.retry.stall = some { w with cause := .retireDrain } ∧ u.retry.pool = sealed ∧
              u.retry.responses = u.responses) ∧
            (u.regions[w.region].state = .staging → u.pool.length < 64 → 1 ≤ u.groups[g].quota →
              u.retry.stall = none ∧
              u.retry.responses = u.responses ++ [{ tag := w.tag, status := .ok, data := none, holdsTag := true }] ∧
              u.retry.pool = sealed ++
                [{ addr := doubleword w.addr, data := maskLanes (laneMask w.addr w.size) w.data,
                   mask := laneMask w.addr w.size, group := g, role := .opened, arrival := 0, issued := false }])))))

/-- REGION_ENABLE by R11's five tests, and REGION_RETIRE by R12's: a retire seals at once an empty group, which leaves
the region OFF with the group's generation number advanced (R13, R14, R83), and a group that holds entries, which leaves
the region in RETIRE_DRAIN with the generation sealed behind its fence (R13, R81), or is left pending at an occupied
sealed slot (R76). No write is stalled in the seals. -/
def Obligations.RegionsEnabledAndRetired : Prop :=
  (∀ r q : Region, r.overlaps q = true ↔
    ∃ n : Nat, (r.base.toNat ≤ n ∧ n < r.base.toNat + 2 ^ r.sizeCode) ∧
      q.base.toNat ≤ n ∧ n < q.base.toNat + 2 ^ q.sizeCode) ∧
  ∀ (s : State) (i : Byte), s.fresh = true →
    (8 ≤ i.toNat →
      exec (.regionEnable i) s = .next (s.replied .nakRange []) ∧
      exec (.regionRetire i) s = .next (s.replied .nakRange [])) ∧
    (∀ r : RegionId, i.toNat = r.val →
      (s.quiescing = true →
        exec (.regionEnable i) s = .next (s.replied .nakBusy []) ∧
        exec (.regionRetire i) s = .next (s.replied .nakBusy [])) ∧
      (s.quiescing = false →
        (s.regions[r].state ≠ .off → exec (.regionEnable i) s = .next (s.replied .nakState [])) ∧
        (s.regions[r].state = .off →
          (∃ q : RegionId, s.regions[q].state ≠ .off ∧ s.regions[r].overlaps s.regions[q] = true) →
          exec (.regionEnable i) s = .next (s.replied .nakOverlap [])) ∧
        (s.regions[r].state = .off →
          (∀ q : RegionId, s.regions[q].state ≠ .off → s.regions[r].overlaps s.regions[q] = false) →
          exec (.regionEnable i) s = .next (State.replied
            { s with regions := s.regions.set r { s.regions[r] with state := .staging } } .ack [0, 0])) ∧
        (s.regions[r].state ≠ .staging → exec (.regionRetire i) s = .next (s.replied .nakState [])) ∧
        (s.regions[r].state = .staging → s.hold.state = .held →
          exec (.regionRetire i) s = .next (s.replied .nakState [])) ∧
        (∀ sl : SealedSlot, s.regions[r].state = .staging → s.hold.state ≠ .held →
          s.groups[s.regions[r].group].slot = some sl →
          exec (.regionRetire i) s = .next (State.replied
            { s with
              regions := s.regions.set r { s.regions[r] with state := .retireWait }
              groups := s.groups.set s.regions[r].group
                { s.groups[s.regions[r].group] with pendingRetire := true } } .ack [0, 0])) ∧
        (s.regions[r].state = .staging → s.hold.state ≠ .held → s.groups[s.regions[r].group].slot = none →
          s.openCount s.regions[r].group = 0 → s.stall = none →
          ∃ t, exec (.regionRetire i) s = .next t ∧ t.port = Port.taken [0x01, 0, 0] ∧
            EmptySealLeaves { s with regions := s.regions.set r { s.regions[r] with state := .retireWait } } t
              s.regions[r].group .retire s.now ∧
            t.regions[r].state = .off ∧ t.groups[s.regions[r].group].slot = none ∧
            t.groups[s.regions[r].group].openGen = s.groups[s.regions[r].group].openGen + 1 ∧
            t.groups[s.regions[r].group].pendingRetire = false ∧
            t.flagSet (.done s.regions[r].group) = true ∧ t.pool = s.pool) ∧
        (s.regions[r].state = .staging → s.hold.state ≠ .held → s.groups[s.regions[r].group].slot = none →
          0 < s.openCount s.regions[r].group → s.stall = none →
          ∃ t, exec (.regionRetire i) s = .next t ∧ t.port = Port.taken [0x01, 0, 0] ∧
            t.regions[r].state = .retireDrain ∧
            SealLeaves { s with regions := s.regions.set r { s.regions[r] with state := .retireWait } } t
              s.regions[r].group .retire s.now ∧
            t.pool = s.pool.map fun e =>
              if e.group = s.regions[r].group ∧ e.role = .opened then { e with role := .sealed, issued := false }
              else e)))

/-- LOG_POP answers the head of the log and removes it (R164), LOG_PEEK answers it and changes nothing (R165), both
EMPTY on an empty log; LOG_CLEAR empties the log and the lost counter, keeping its registers, the flags and
LOG_LOST_TOTAL (R166). EVENT_ACK clears the flags its mask names and answers with the flags it leaves (R182), and
COUNTERS_CLEAR sets the 26 counters to 0 and touches nothing else (R184). INT_N is asserted exactly when RST_N is
deasserted and some flag is set with its enable set, so EVENT_ACK leaves it asserted exactly when such a flag is left
(R181, R182). Each flag stands at the position of Table 10-4; raising a flag sets it and no other (R180), and raising a
counter moves it and no other, to 65535 at most (R183). -/
def Obligations.LogFlagsAndCountersCleared : Prop :=
  (∀ (s : State) (f : Flag), s.flagSet f = s.events.flags.getLsbD (match f with
    | .done g => g.val
    | .overrun g => 4 + g.val
    | .stallTimeout => 8
    | .refused => 9
    | .drainFault => 10
    | .holdOn => 11
    | .logWatermark => 12
    | .logLoss => 13
    | .protocol => 14
    | .quiesced => 15)) ∧
  (∀ (s : State) (f k : Flag),
    ((s.raise f).flagSet k = true ↔ k = f ∨ s.flagSet k = true) ∧
    s.raise f = { s with events := { s.events with flags := (s.raise f).events.flags } }) ∧
  (∀ (s : State) (c k : Counter) (n : Nat),
    (s.bump c n).counter k = (if k = c then min 65535 (s.counter c + n) else s.counter k) ∧
    s.bump c n = { s with events := { s.events with counters := (s.bump c n).events.counters } }) ∧
  (∀ s : State, s.intAsserted = true ↔
    s.inReset = false ∧ ∃ k : Nat, s.events.flags.getLsbD k = true ∧ s.events.enables.getLsbD k = true) ∧
  ∀ (s : State) (a : Byte) (m : BitVec 16), s.fresh = true →
    (∃ t, exec (.eventAck m) s = .next t ∧ (t.intAsserted = true ↔
      ∃ k : Nat, s.events.flags.getLsbD k = true ∧ s.events.enables.getLsbD k = true ∧ m.getLsbD k = false)) ∧
    (s.log.records = [] →
      exec .logPop s = .next (s.replied .empty []) ∧ exec .logPeek s = .next (s.replied .empty [])) ∧
    (∀ (r : LogRecord) (rest : List LogRecord), s.log.records = r :: rest →
      exec .logPop s =
        .next (State.replied { s with log := { s.log with records := rest } } .ack r.bytes) ∧
      exec .logPeek s = .next (s.replied .ack r.bytes)) ∧
    exec (.logClear a) s =
      .next (State.replied { s with log := { s.log with records := [], lost := 0 } } .ack [0, 0]) ∧
    exec (.eventAck m) s = .next (State.replied
      { s with events := { s.events with flags := s.events.flags &&& ~~~m } } .ack
      (bytes16 (s.events.flags &&& ~~~m))) ∧
    exec (.countersClear a) s = .next (State.replied
      { s with events := { s.events with counters := Vector.replicate 26 0 } } .ack [0, 0])

/-- The 16 bytes of a log record (Tables 10-10 and 10-11), for every record of each of the seven kinds. -/
def Obligations.LogRecordLayout : Prop :=
  ∀ (i : Fin 4) (ts : Stamp) (gap : Nat) (p : Bool) (bs : List Byte),
    (∀ (addr : Addr) (tag : UTag) (k : ReqKind) (z : Size) (path : Path),
      LogRecord.bytes { index := i, stamp := ts, gap := gap, gapPresent := p, body := .access addr tag k z path } = bs →
      bs.length = 16 ∧ bs[0]? = some 1 ∧
      bs[1]? = some (BitVec.ofNat 8 ((if ts.dir = .down then 128 else 0) + (if p then 64 else 0) + i.val)) ∧
      (bs.drop 2).take 2 = bytes16 (BitVec.ofNat 16 ts.count) ∧ (bs.drop 4).take 4 = bytes32 ts.period ∧
      (bs.drop 8).take 4 = bytes32 addr ∧
      (bs.drop 12).take 2 = bytes16 (BitVec.ofNat 16 (tag.val + 16 * (match k with | .read => 0 | .write => 1) +
        32 * (match z with | .b1 => 0 | .b2 => 1 | .b4 => 2 | .b8 => 3) +
        128 * (match path with
          | .staged => 0 | .pass => 1 | .stalled => 2 | .refused => 3 | .localRead => 4 | .forwarded => 5))) ∧
      (bs.drop 14) = bytes16 (BitVec.ofNat 16 gap)) ∧
    (∀ (gen : BitVec 16) (n : Nat) (c : SealCause) (f : Nat), n ≤ 64 →
      LogRecord.bytes { index := i, stamp := ts, gap := gap, gapPresent := p, body := .sealed gen n c f } = bs →
      bs[0]? = some 2 ∧
      (bs.drop 8).take 4 = bytes32 (BitVec.ofNat 32 (gen.toNat + n * 2 ^ 16 +
        (match c with | .trigger => 0 | .manual => 1 | .pressure => 2 | .retire => 3) * 2 ^ 24)) ∧
      (bs.drop 12).take 2 = bytes16 (BitVec.ofNat 16 f)) ∧
    (∀ (gen : BitVec 16) (w f : Nat) (ab : Bool) (el : Nat), w ≤ 64 → f ≤ 64 →
      LogRecord.bytes { index := i, stamp := ts, gap := gap, gapPresent := p, body := .drainDone gen w f ab el } = bs →
      bs[0]? = some 3 ∧
      (bs.drop 8).take 4 = bytes32 (BitVec.ofNat 32
        (gen.toNat + w * 2 ^ 16 + f * 2 ^ 24 + (if ab then 2 ^ 31 else 0))) ∧
      (bs.drop 12).take 2 = bytes16 (BitVec.ofNat 16 el)) ∧
    (∀ (gen : BitVec 16) (ph : SlotPhase),
      LogRecord.bytes { index := i, stamp := ts, gap := gap, gapPresent := p, body := .overrun gen ph } = bs →
      bs[0]? = some 4 ∧
      (bs.drop 8).take 4 = bytes32 (BitVec.ofNat 32 (gen.toNat +
        (match ph with | .fenced => 1 | .ready => 2 | .draining => 3) * 2 ^ 16)) ∧
      (bs.drop 12).take 2 = [0, 0]) ∧
    (∀ (addr : Addr) (gen : BitVec 16),
      LogRecord.bytes { index := i, stamp := ts, gap := gap, gapPresent := p, body := .drainFault addr gen } = bs →
      bs[0]? = some 5 ∧ (bs.drop 8).take 4 = bytes32 addr ∧ (bs.drop 12).take 2 = bytes16 gen) ∧
    (∀ (n : Nat) (c : HoldCause), n ≤ 64 →
      LogRecord.bytes { index := i, stamp := ts, gap := gap, gapPresent := p, body := .holdOn n c } = bs →
      bs[0]? = some 6 ∧
      (bs.drop 8).take 4 = bytes32 (BitVec.ofNat 32 (n + (match c with | .line => 0 | .software => 1) * 2 ^ 8)) ∧
      (bs.drop 12).take 2 = [0, 0]) ∧
    (∀ n : Nat, n ≤ 65535 →
      LogRecord.bytes { index := i, stamp := ts, gap := gap, gapPresent := p, body := .holdOff n } = bs →
      bs[0]? = some 7 ∧ (bs.drop 8).take 4 = bytes32 (BitVec.ofNat 32 n) ∧ (bs.drop 12).take 2 = [0, 0]) ∧
    (∀ b : LogBody,
      LogRecord.bytes { index := i, stamp := ts, gap := gap, gapPresent := p, body := b } = bs →
      bs.length = 16 ∧
      bs[1]? = some (BitVec.ofNat 8 ((if ts.dir = .down then 128 else 0) + (if p then 64 else 0) + i.val)) ∧
      (bs.drop 2).take 2 = bytes16 (BitVec.ofNat 16 ts.count) ∧ (bs.drop 4).take 4 = bytes32 ts.period ∧
      (bs.drop 14) = bytes16 (BitVec.ofNat 16 gap))

/-- DATAPATH_RESET is answered NAK_BUSY while quiescing. Otherwise the part is quiescing and a stalled write has been
refused (R42, R147); with work left on the path that is all, and with nothing left on it the last step is taken within
the same action, as QUIESCE_END takes it, whether or not a write was stalled (R149). -/
def Obligations.DatapathResetBeginsAQuiesce : Prop :=
  ∀ (s u : State) (a : Byte), s.fresh = true →
    (s.quiescing = true → exec (.datapathReset a) s = .next (s.replied .nakBusy [])) ∧
    (s.quiescing = false →
      u = (match s.stall with
        | none => { s with quiescing := true }
        | some w => (({ s with
            quiescing := true
            stall := none
            responses := s.responses ++
              [{ tag := w.tag, status := .errStage, data := none, holdsTag := true }] } : State).bump
          .refusedWrites 1).raise .refused) →
      (s.forwardQueue ≠ [] ∨ s.channel ≠ none ∨ (∃ t : UTag, s.outstanding[t] ≠ none) ∨
          (∃ d : Fin 4, s.drainTags[d] ≠ none) →
        exec (.datapathReset a) s = .next (u.replied .ack [0, 0])) ∧
      (s.forwardQueue = [] → s.channel = none → (∀ t : UTag, s.outstanding[t] = none) →
        (∀ d : Fin 4, s.drainTags[d] = none) →
        ∃ t, exec .quiesceEnd u = .next t ∧ exec (.datapathReset a) s = .next (t.replied .ack [0, 0]) ∧
          t.quiescing = false ∧ t.stall = none ∧ t.responses = u.responses ∧ t.flagSet .quiesced = true ∧
          (s.stall ≠ none →
            t.counter .refusedWrites = satAdd (s.counter .refusedWrites) 1 ∧ t.flagSet .refused = true) ∧
          t.pool = [] ∧ t.ready = [] ∧ (∀ g : GroupId, t.groups[g].slot = none) ∧
          t.timebase = s.timebase ∧ t.hold = s.hold))

/-- The last step of a quiesce waits for an empty path, and then empties the pool, counting the OPEN entries, makes
every sealed slot NONE with its DONE(g), clears the groups' divider counts and pending flags, turns the retiring
regions OFF, sets QUIESCED and ends the quiesce; generation numbers, responses, timebase and hold are kept (R43, R99,
R149). Each occupied slot, in ascending order of group, makes a DRAIN_DONE record, marked abandoned unless every entry
was answered (R98, R99). That the last step is a command of its own is the model's reading (log 13), and that the row
changes nothing on a path not empty is the model's choice (log 3). -/
def Obligations.LastStepEndsTheQuiesce : Prop :=
  ∀ (s : State), s.inReset = false → s.quiescing = true →
    (s.forwardQueue ≠ [] ∨ s.channel ≠ none ∨ (∃ t : UTag, s.outstanding[t] ≠ none) ∨
        (∃ d : Fin 4, s.drainTags[d] ≠ none) → exec .quiesceEnd s = .next s) ∧
    (s.forwardQueue = [] → s.channel = none → (∀ t : UTag, s.outstanding[t] = none) →
      (∀ d : Fin 4, s.drainTags[d] = none) →
      ∃ t, exec .quiesceEnd s = .next t ∧ t.quiescing = false ∧ t.flagSet .quiesced = true ∧
        t.pool = [] ∧ t.ready = [] ∧
        (∀ g : GroupId, t.groups[g] =
          { s.groups[g] with slot := none, dividerCount := 0, pendingRetire := false }) ∧
        (∀ g : GroupId, s.groups[g].slot ≠ none → t.flagSet (.done g) = true) ∧
        (∀ g : GroupId, t.counter (.discarded g) = satAdd (s.counter (.discarded g)) (s.openCount g)) ∧
        (∀ r : RegionId, t.regions[r] =
          { s.regions[r] with
            state := if s.regions[r].state = .retireWait ∨ s.regions[r].state = .retireDrain then .off
              else s.regions[r].state }) ∧
        t.log = (([0, 1, 2, 3] : List GroupId).foldl (fun u g => match s.groups[g].slot with
          | none => u
          | some sl => u.logRecord g s.now
              (.drainDone sl.gen sl.written sl.failed (decide (sl.written + sl.failed ≠ sl.entries)) sl.elapsed)) s).log ∧
        t.responses = s.responses ∧ t.inFlight = s.inFlight ∧ t.places = s.places ∧ t.timebase = s.timebase ∧
        t.hold = s.hold ∧ t.watches = s.watches ∧ t.lastGrant = s.lastGrant ∧ t.port = s.port)

/-- PROBE answers with the doubleword's OPEN and SEALED entries, whatever the low bits of the address, and STATUS with
the flags, the hold, run, quiesce and stall states and POOL_USED; neither changes any state (R45, R178, R179). -/
def Obligations.ProbeAndStatusReply : Prop :=
  ∀ (s : State) (a : Addr) (o c : Option Entry), s.fresh = true →
    ((s.pool.find? fun e => decide (e.role = .opened ∧ e.addr = doubleword a)) = o →
      (s.pool.find? fun e => decide (e.role = .sealed ∧ e.addr = doubleword a)) = c →
      exec (.probe a) s = .next (s.replied .ack (
        [match o, c with
          | some e, _ => byteOf e.group.val
          | none, some e => byteOf e.group.val
          | none, none => 0,
         (if o.isSome then 1#8 else 0#8) ||| (if c.isSome then 2#8 else 0#8),
         (o.elim 0 Entry.mask), (c.elim 0 Entry.mask)] ++
        (o.elim Lanes.zero fun e => maskLanes e.mask e.data).toList ++
        (c.elim Lanes.zero fun e => maskLanes e.mask e.data).toList))) ∧
    exec .status s = .next (s.replied .ack (bytes16 s.events.flags ++
      [(match s.hold.state with | .clear => 0#8 | .filtering => 1#8 | .held => 2#8) |||
       (if s.timebase.running then 4#8 else 0#8) ||| (if s.quiescing then 8#8 else 0#8) |||
       (match s.stall with | none => 0#8 | some w => if w.cause = .noEntry then 16#8 else 32#8),
       byteOf s.pool.length]))

/-! ### Invariants -/

/-- The state right after hardware reset is sound. -/
def Obligations.ResetIsSound : Prop := State.reset.Sound

/-- Every step keeps the bounds of the pool, the arrival numbers of the OPEN entries and the one OPEN entry for a
doubleword (R22, R23, R24). -/
def Obligations.StepsKeepThePool : Prop :=
  ∀ s t : State, s.PoolBounded → s.ArrivalsInOrder → s.OneOpenEntry → step s = .next t →
    t.PoolBounded ∧ t.ArrivalsInOrder ∧ t.OneOpenEntry

/-- Every step keeps the active windows apart (R11). -/
def Obligations.StepsKeepWindowsApart : Prop :=
  ∀ s t : State, s.WindowsApart → step s = .next t → t.WindowsApart

/-- Every step keeps the period count within the active limit (R52). -/
def Obligations.StepsKeepTheCountBounded : Prop :=
  ∀ s t : State, s.timebase.Bounded → step s = .next t → t.timebase.Bounded

/-- Every step keeps the log at 32 records at most, the counters within 16 bits, the reserved places at 32 at most and
each divider count below its divider (R70, R139, R159, R183). -/
def Obligations.StepsKeepCountsBounded : Prop :=
  ∀ s t : State, step s = .next t →
    (s.LogBounded → t.LogBounded) ∧ (s.CountersBounded → t.CountersBounded) ∧
    (s.PlacesBounded → t.PlacesBounded) ∧ (s.DividersBelow → t.DividersBelow)

/-- Every step keeps the hold unit in step with the line (R122, R123, R124). -/
def Obligations.StepsFollowTheLine : Prop :=
  ∀ s t : State, s.LineFollowed → step s = .next t → t.LineFollowed

end
end

