-- ==== Sys2Proof/Laws/State.lean ====
section
/-! SUPPORT. What each named update of State does to each field: one lemma per field, true by unfolding, so that no
later proof unfolds a record update. -/

namespace Sys2Proof.Machine

@[simp] theorem State.raise_inReset (s : State) (f : Flag) :
    (s.raise f).inReset = s.inReset := rfl
@[simp] theorem State.raise_hldLow (s : State) (f : Flag) :
    (s.raise f).hldLow = s.hldLow := rfl
@[simp] theorem State.raise_csLow (s : State) (f : Flag) :
    (s.raise f).csLow = s.csLow := rfl
@[simp] theorem State.raise_quiescing (s : State) (f : Flag) :
    (s.raise f).quiescing = s.quiescing := rfl
@[simp] theorem State.raise_regions (s : State) (f : Flag) :
    (s.raise f).regions = s.regions := rfl
@[simp] theorem State.raise_groups (s : State) (f : Flag) :
    (s.raise f).groups = s.groups := rfl
@[simp] theorem State.raise_pool (s : State) (f : Flag) :
    (s.raise f).pool = s.pool := rfl
@[simp] theorem State.raise_stallLimit (s : State) (f : Flag) :
    (s.raise f).stallLimit = s.stallLimit := rfl
@[simp] theorem State.raise_stall (s : State) (f : Flag) :
    (s.raise f).stall = s.stall := rfl
@[simp] theorem State.raise_inFlight (s : State) (f : Flag) :
    (s.raise f).inFlight = s.inFlight := rfl
@[simp] theorem State.raise_places (s : State) (f : Flag) :
    (s.raise f).places = s.places := rfl
@[simp] theorem State.raise_responses (s : State) (f : Flag) :
    (s.raise f).responses = s.responses := rfl
@[simp] theorem State.raise_forwardQueue (s : State) (f : Flag) :
    (s.raise f).forwardQueue = s.forwardQueue := rfl
@[simp] theorem State.raise_outstanding (s : State) (f : Flag) :
    (s.raise f).outstanding = s.outstanding := rfl
@[simp] theorem State.raise_tracker (s : State) (f : Flag) :
    (s.raise f).tracker = s.tracker := rfl
@[simp] theorem State.raise_channel (s : State) (f : Flag) :
    (s.raise f).channel = s.channel := rfl
@[simp] theorem State.raise_lastGrant (s : State) (f : Flag) :
    (s.raise f).lastGrant = s.lastGrant := rfl
@[simp] theorem State.raise_ready (s : State) (f : Flag) :
    (s.raise f).ready = s.ready := rfl
@[simp] theorem State.raise_nextIssue (s : State) (f : Flag) :
    (s.raise f).nextIssue = s.nextIssue := rfl
@[simp] theorem State.raise_drainTags (s : State) (f : Flag) :
    (s.raise f).drainTags = s.drainTags := rfl
@[simp] theorem State.raise_timebase (s : State) (f : Flag) :
    (s.raise f).timebase = s.timebase := rfl
@[simp] theorem State.raise_hold (s : State) (f : Flag) :
    (s.raise f).hold = s.hold := rfl
@[simp] theorem State.raise_watches (s : State) (f : Flag) :
    (s.raise f).watches = s.watches := rfl
@[simp] theorem State.raise_log (s : State) (f : Flag) :
    (s.raise f).log = s.log := rfl
@[simp] theorem State.raise_events (s : State) (f : Flag) :
    (s.raise f).events = { s.events with flags := s.events.flags ||| BitVec.twoPow 16 f.pos } := rfl
@[simp] theorem State.raise_port (s : State) (f : Flag) :
    (s.raise f).port = s.port := rfl
@[simp] theorem State.raise_pending (s : State) (f : Flag) :
    (s.raise f).pending = s.pending := rfl
@[simp] theorem State.raise_draws (s : State) (f : Flag) :
    (s.raise f).draws = s.draws := rfl

@[simp] theorem State.bump_inReset (s : State) (c : Counter) (n : Nat) :
    (s.bump c n).inReset = s.inReset := rfl
@[simp] theorem State.bump_hldLow (s : State) (c : Counter) (n : Nat) :
    (s.bump c n).hldLow = s.hldLow := rfl
@[simp] theorem State.bump_csLow (s : State) (c : Counter) (n : Nat) :
    (s.bump c n).csLow = s.csLow := rfl
@[simp] theorem State.bump_quiescing (s : State) (c : Counter) (n : Nat) :
    (s.bump c n).quiescing = s.quiescing := rfl
@[simp] theorem State.bump_regions (s : State) (c : Counter) (n : Nat) :
    (s.bump c n).regions = s.regions := rfl
@[simp] theorem State.bump_groups (s : State) (c : Counter) (n : Nat) :
    (s.bump c n).groups = s.groups := rfl
@[simp] theorem State.bump_pool (s : State) (c : Counter) (n : Nat) :
    (s.bump c n).pool = s.pool := rfl
@[simp] theorem State.bump_stallLimit (s : State) (c : Counter) (n : Nat) :
    (s.bump c n).stallLimit = s.stallLimit := rfl
@[simp] theorem State.bump_stall (s : State) (c : Counter) (n : Nat) :
    (s.bump c n).stall = s.stall := rfl
@[simp] theorem State.bump_inFlight (s : State) (c : Counter) (n : Nat) :
    (s.bump c n).inFlight = s.inFlight := rfl
@[simp] theorem State.bump_places (s : State) (c : Counter) (n : Nat) :
    (s.bump c n).places = s.places := rfl
@[simp] theorem State.bump_responses (s : State) (c : Counter) (n : Nat) :
    (s.bump c n).responses = s.responses := rfl
@[simp] theorem State.bump_forwardQueue (s : State) (c : Counter) (n : Nat) :
    (s.bump c n).forwardQueue = s.forwardQueue := rfl
@[simp] theorem State.bump_outstanding (s : State) (c : Counter) (n : Nat) :
    (s.bump c n).outstanding = s.outstanding := rfl
@[simp] theorem State.bump_tracker (s : State) (c : Counter) (n : Nat) :
    (s.bump c n).tracker = s.tracker := rfl
@[simp] theorem State.bump_channel (s : State) (c : Counter) (n : Nat) :
    (s.bump c n).channel = s.channel := rfl
@[simp] theorem State.bump_lastGrant (s : State) (c : Counter) (n : Nat) :
    (s.bump c n).lastGrant = s.lastGrant := rfl
@[simp] theorem State.bump_ready (s : State) (c : Counter) (n : Nat) :
    (s.bump c n).ready = s.ready := rfl
@[simp] theorem State.bump_nextIssue (s : State) (c : Counter) (n : Nat) :
    (s.bump c n).nextIssue = s.nextIssue := rfl
@[simp] theorem State.bump_drainTags (s : State) (c : Counter) (n : Nat) :
    (s.bump c n).drainTags = s.drainTags := rfl
@[simp] theorem State.bump_timebase (s : State) (c : Counter) (n : Nat) :
    (s.bump c n).timebase = s.timebase := rfl
@[simp] theorem State.bump_hold (s : State) (c : Counter) (n : Nat) :
    (s.bump c n).hold = s.hold := rfl
@[simp] theorem State.bump_watches (s : State) (c : Counter) (n : Nat) :
    (s.bump c n).watches = s.watches := rfl
@[simp] theorem State.bump_log (s : State) (c : Counter) (n : Nat) :
    (s.bump c n).log = s.log := rfl
@[simp] theorem State.bump_events (s : State) (c : Counter) (n : Nat) :
    (s.bump c n).events = { s.events with counters := s.events.counters.set c.index (satAdd (s.counter c) n) } := rfl
@[simp] theorem State.bump_port (s : State) (c : Counter) (n : Nat) :
    (s.bump c n).port = s.port := rfl
@[simp] theorem State.bump_pending (s : State) (c : Counter) (n : Nat) :
    (s.bump c n).pending = s.pending := rfl
@[simp] theorem State.bump_draws (s : State) (c : Counter) (n : Nat) :
    (s.bump c n).draws = s.draws := rfl

@[simp] theorem State.clearFlags_inReset (s : State) (m : BitVec 16) :
    (s.clearFlags m).inReset = s.inReset := rfl
@[simp] theorem State.clearFlags_hldLow (s : State) (m : BitVec 16) :
    (s.clearFlags m).hldLow = s.hldLow := rfl
@[simp] theorem State.clearFlags_csLow (s : State) (m : BitVec 16) :
    (s.clearFlags m).csLow = s.csLow := rfl
@[simp] theorem State.clearFlags_quiescing (s : State) (m : BitVec 16) :
    (s.clearFlags m).quiescing = s.quiescing := rfl
@[simp] theorem State.clearFlags_regions (s : State) (m : BitVec 16) :
    (s.clearFlags m).regions = s.regions := rfl
@[simp] theorem State.clearFlags_groups (s : State) (m : BitVec 16) :
    (s.clearFlags m).groups = s.groups := rfl
@[simp] theorem State.clearFlags_pool (s : State) (m : BitVec 16) :
    (s.clearFlags m).pool = s.pool := rfl
@[simp] theorem State.clearFlags_stallLimit (s : State) (m : BitVec 16) :
    (s.clearFlags m).stallLimit = s.stallLimit := rfl
@[simp] theorem State.clearFlags_stall (s : State) (m : BitVec 16) :
    (s.clearFlags m).stall = s.stall := rfl
@[simp] theorem State.clearFlags_inFlight (s : State) (m : BitVec 16) :
    (s.clearFlags m).inFlight = s.inFlight := rfl
@[simp] theorem State.clearFlags_places (s : State) (m : BitVec 16) :
    (s.clearFlags m).places = s.places := rfl
@[simp] theorem State.clearFlags_responses (s : State) (m : BitVec 16) :
    (s.clearFlags m).responses = s.responses := rfl
@[simp] theorem State.clearFlags_forwardQueue (s : State) (m : BitVec 16) :
    (s.clearFlags m).forwardQueue = s.forwardQueue := rfl
@[simp] theorem State.clearFlags_outstanding (s : State) (m : BitVec 16) :
    (s.clearFlags m).outstanding = s.outstanding := rfl
@[simp] theorem State.clearFlags_tracker (s : State) (m : BitVec 16) :
    (s.clearFlags m).tracker = s.tracker := rfl
@[simp] theorem State.clearFlags_channel (s : State) (m : BitVec 16) :
    (s.clearFlags m).channel = s.channel := rfl
@[simp] theorem State.clearFlags_lastGrant (s : State) (m : BitVec 16) :
    (s.clearFlags m).lastGrant = s.lastGrant := rfl
@[simp] theorem State.clearFlags_ready (s : State) (m : BitVec 16) :
    (s.clearFlags m).ready = s.ready := rfl
@[simp] theorem State.clearFlags_nextIssue (s : State) (m : BitVec 16) :
    (s.clearFlags m).nextIssue = s.nextIssue := rfl
@[simp] theorem State.clearFlags_drainTags (s : State) (m : BitVec 16) :
    (s.clearFlags m).drainTags = s.drainTags := rfl
@[simp] theorem State.clearFlags_timebase (s : State) (m : BitVec 16) :
    (s.clearFlags m).timebase = s.timebase := rfl
@[simp] theorem State.clearFlags_hold (s : State) (m : BitVec 16) :
    (s.clearFlags m).hold = s.hold := rfl
@[simp] theorem State.clearFlags_watches (s : State) (m : BitVec 16) :
    (s.clearFlags m).watches = s.watches := rfl
@[simp] theorem State.clearFlags_log (s : State) (m : BitVec 16) :
    (s.clearFlags m).log = s.log := rfl
@[simp] theorem State.clearFlags_events (s : State) (m : BitVec 16) :
    (s.clearFlags m).events = { s.events with flags := s.events.flags &&& ~~~m } := rfl
@[simp] theorem State.clearFlags_port (s : State) (m : BitVec 16) :
    (s.clearFlags m).port = s.port := rfl
@[simp] theorem State.clearFlags_pending (s : State) (m : BitVec 16) :
    (s.clearFlags m).pending = s.pending := rfl
@[simp] theorem State.clearFlags_draws (s : State) (m : BitVec 16) :
    (s.clearFlags m).draws = s.draws := rfl

@[simp] theorem State.modGroup_inReset (s : State) (g : GroupId) (f : Group → Group) :
    (s.modGroup g f).inReset = s.inReset := rfl
@[simp] theorem State.modGroup_hldLow (s : State) (g : GroupId) (f : Group → Group) :
    (s.modGroup g f).hldLow = s.hldLow := rfl
@[simp] theorem State.modGroup_csLow (s : State) (g : GroupId) (f : Group → Group) :
    (s.modGroup g f).csLow = s.csLow := rfl
@[simp] theorem State.modGroup_quiescing (s : State) (g : GroupId) (f : Group → Group) :
    (s.modGroup g f).quiescing = s.quiescing := rfl
@[simp] theorem State.modGroup_regions (s : State) (g : GroupId) (f : Group → Group) :
    (s.modGroup g f).regions = s.regions := rfl
@[simp] theorem State.modGroup_groups (s : State) (g : GroupId) (f : Group → Group) :
    (s.modGroup g f).groups = s.groups.set g (f s.groups[g]) := rfl
@[simp] theorem State.modGroup_pool (s : State) (g : GroupId) (f : Group → Group) :
    (s.modGroup g f).pool = s.pool := rfl
@[simp] theorem State.modGroup_stallLimit (s : State) (g : GroupId) (f : Group → Group) :
    (s.modGroup g f).stallLimit = s.stallLimit := rfl
@[simp] theorem State.modGroup_stall (s : State) (g : GroupId) (f : Group → Group) :
    (s.modGroup g f).stall = s.stall := rfl
@[simp] theorem State.modGroup_inFlight (s : State) (g : GroupId) (f : Group → Group) :
    (s.modGroup g f).inFlight = s.inFlight := rfl
@[simp] theorem State.modGroup_places (s : State) (g : GroupId) (f : Group → Group) :
    (s.modGroup g f).places = s.places := rfl
@[simp] theorem State.modGroup_responses (s : State) (g : GroupId) (f : Group → Group) :
    (s.modGroup g f).responses = s.responses := rfl
@[simp] theorem State.modGroup_forwardQueue (s : State) (g : GroupId) (f : Group → Group) :
    (s.modGroup g f).forwardQueue = s.forwardQueue := rfl
@[simp] theorem State.modGroup_outstanding (s : State) (g : GroupId) (f : Group → Group) :
    (s.modGroup g f).outstanding = s.outstanding := rfl
@[simp] theorem State.modGroup_tracker (s : State) (g : GroupId) (f : Group → Group) :
    (s.modGroup g f).tracker = s.tracker := rfl
@[simp] theorem State.modGroup_channel (s : State) (g : GroupId) (f : Group → Group) :
    (s.modGroup g f).channel = s.channel := rfl
@[simp] theorem State.modGroup_lastGrant (s : State) (g : GroupId) (f : Group → Group) :
    (s.modGroup g f).lastGrant = s.lastGrant := rfl
@[simp] theorem State.modGroup_ready (s : State) (g : GroupId) (f : Group → Group) :
    (s.modGroup g f).ready = s.ready := rfl
@[simp] theorem State.modGroup_nextIssue (s : State) (g : GroupId) (f : Group → Group) :
    (s.modGroup g f).nextIssue = s.nextIssue := rfl
@[simp] theorem State.modGroup_drainTags (s : State) (g : GroupId) (f : Group → Group) :
    (s.modGroup g f).drainTags = s.drainTags := rfl
@[simp] theorem State.modGroup_timebase (s : State) (g : GroupId) (f : Group → Group) :
    (s.modGroup g f).timebase = s.timebase := rfl
@[simp] theorem State.modGroup_hold (s : State) (g : GroupId) (f : Group → Group) :
    (s.modGroup g f).hold = s.hold := rfl
@[simp] theorem State.modGroup_watches (s : State) (g : GroupId) (f : Group → Group) :
    (s.modGroup g f).watches = s.watches := rfl
@[simp] theorem State.modGroup_log (s : State) (g : GroupId) (f : Group → Group) :
    (s.modGroup g f).log = s.log := rfl
@[simp] theorem State.modGroup_events (s : State) (g : GroupId) (f : Group → Group) :
    (s.modGroup g f).events = s.events := rfl
@[simp] theorem State.modGroup_port (s : State) (g : GroupId) (f : Group → Group) :
    (s.modGroup g f).port = s.port := rfl
@[simp] theorem State.modGroup_pending (s : State) (g : GroupId) (f : Group → Group) :
    (s.modGroup g f).pending = s.pending := rfl
@[simp] theorem State.modGroup_draws (s : State) (g : GroupId) (f : Group → Group) :
    (s.modGroup g f).draws = s.draws := rfl

@[simp] theorem State.modSlot_inReset (s : State) (g : GroupId) (f : SealedSlot → SealedSlot) :
    (s.modSlot g f).inReset = s.inReset := rfl
@[simp] theorem State.modSlot_hldLow (s : State) (g : GroupId) (f : SealedSlot → SealedSlot) :
    (s.modSlot g f).hldLow = s.hldLow := rfl
@[simp] theorem State.modSlot_csLow (s : State) (g : GroupId) (f : SealedSlot → SealedSlot) :
    (s.modSlot g f).csLow = s.csLow := rfl
@[simp] theorem State.modSlot_quiescing (s : State) (g : GroupId) (f : SealedSlot → SealedSlot) :
    (s.modSlot g f).quiescing = s.quiescing := rfl
@[simp] theorem State.modSlot_regions (s : State) (g : GroupId) (f : SealedSlot → SealedSlot) :
    (s.modSlot g f).regions = s.regions := rfl
@[simp] theorem State.modSlot_groups (s : State) (g : GroupId) (f : SealedSlot → SealedSlot) :
    (s.modSlot g f).groups = s.groups.set g { s.groups[g] with slot := s.groups[g].slot.map f } := rfl
@[simp] theorem State.modSlot_pool (s : State) (g : GroupId) (f : SealedSlot → SealedSlot) :
    (s.modSlot g f).pool = s.pool := rfl
@[simp] theorem State.modSlot_stallLimit (s : State) (g : GroupId) (f : SealedSlot → SealedSlot) :
    (s.modSlot g f).stallLimit = s.stallLimit := rfl
@[simp] theorem State.modSlot_stall (s : State) (g : GroupId) (f : SealedSlot → SealedSlot) :
    (s.modSlot g f).stall = s.stall := rfl
@[simp] theorem State.modSlot_inFlight (s : State) (g : GroupId) (f : SealedSlot → SealedSlot) :
    (s.modSlot g f).inFlight = s.inFlight := rfl
@[simp] theorem State.modSlot_places (s : State) (g : GroupId) (f : SealedSlot → SealedSlot) :
    (s.modSlot g f).places = s.places := rfl
@[simp] theorem State.modSlot_responses (s : State) (g : GroupId) (f : SealedSlot → SealedSlot) :
    (s.modSlot g f).responses = s.responses := rfl
@[simp] theorem State.modSlot_forwardQueue (s : State) (g : GroupId) (f : SealedSlot → SealedSlot) :
    (s.modSlot g f).forwardQueue = s.forwardQueue := rfl
@[simp] theorem State.modSlot_outstanding (s : State) (g : GroupId) (f : SealedSlot → SealedSlot) :
    (s.modSlot g f).outstanding = s.outstanding := rfl
@[simp] theorem State.modSlot_tracker (s : State) (g : GroupId) (f : SealedSlot → SealedSlot) :
    (s.modSlot g f).tracker = s.tracker := rfl
@[simp] theorem State.modSlot_channel (s : State) (g : GroupId) (f : SealedSlot → SealedSlot) :
    (s.modSlot g f).channel = s.channel := rfl
@[simp] theorem State.modSlot_lastGrant (s : State) (g : GroupId) (f : SealedSlot → SealedSlot) :
    (s.modSlot g f).lastGrant = s.lastGrant := rfl
@[simp] theorem State.modSlot_ready (s : State) (g : GroupId) (f : SealedSlot → SealedSlot) :
    (s.modSlot g f).ready = s.ready := rfl
@[simp] theorem State.modSlot_nextIssue (s : State) (g : GroupId) (f : SealedSlot → SealedSlot) :
    (s.modSlot g f).nextIssue = s.nextIssue := rfl
@[simp] theorem State.modSlot_drainTags (s : State) (g : GroupId) (f : SealedSlot → SealedSlot) :
    (s.modSlot g f).drainTags = s.drainTags := rfl
@[simp] theorem State.modSlot_timebase (s : State) (g : GroupId) (f : SealedSlot → SealedSlot) :
    (s.modSlot g f).timebase = s.timebase := rfl
@[simp] theorem State.modSlot_hold (s : State) (g : GroupId) (f : SealedSlot → SealedSlot) :
    (s.modSlot g f).hold = s.hold := rfl
@[simp] theorem State.modSlot_watches (s : State) (g : GroupId) (f : SealedSlot → SealedSlot) :
    (s.modSlot g f).watches = s.watches := rfl
@[simp] theorem State.modSlot_log (s : State) (g : GroupId) (f : SealedSlot → SealedSlot) :
    (s.modSlot g f).log = s.log := rfl
@[simp] theorem State.modSlot_events (s : State) (g : GroupId) (f : SealedSlot → SealedSlot) :
    (s.modSlot g f).events = s.events := rfl
@[simp] theorem State.modSlot_port (s : State) (g : GroupId) (f : SealedSlot → SealedSlot) :
    (s.modSlot g f).port = s.port := rfl
@[simp] theorem State.modSlot_pending (s : State) (g : GroupId) (f : SealedSlot → SealedSlot) :
    (s.modSlot g f).pending = s.pending := rfl
@[simp] theorem State.modSlot_draws (s : State) (g : GroupId) (f : SealedSlot → SealedSlot) :
    (s.modSlot g f).draws = s.draws := rfl

@[simp] theorem State.modRegion_inReset (s : State) (r : RegionId) (f : Region → Region) :
    (s.modRegion r f).inReset = s.inReset := rfl
@[simp] theorem State.modRegion_hldLow (s : State) (r : RegionId) (f : Region → Region) :
    (s.modRegion r f).hldLow = s.hldLow := rfl
@[simp] theorem State.modRegion_csLow (s : State) (r : RegionId) (f : Region → Region) :
    (s.modRegion r f).csLow = s.csLow := rfl
@[simp] theorem State.modRegion_quiescing (s : State) (r : RegionId) (f : Region → Region) :
    (s.modRegion r f).quiescing = s.quiescing := rfl
@[simp] theorem State.modRegion_regions (s : State) (r : RegionId) (f : Region → Region) :
    (s.modRegion r f).regions = s.regions.set r (f s.regions[r]) := rfl
@[simp] theorem State.modRegion_groups (s : State) (r : RegionId) (f : Region → Region) :
    (s.modRegion r f).groups = s.groups := rfl
@[simp] theorem State.modRegion_pool (s : State) (r : RegionId) (f : Region → Region) :
    (s.modRegion r f).pool = s.pool := rfl
@[simp] theorem State.modRegion_stallLimit (s : State) (r : RegionId) (f : Region → Region) :
    (s.modRegion r f).stallLimit = s.stallLimit := rfl
@[simp] theorem State.modRegion_stall (s : State) (r : RegionId) (f : Region → Region) :
    (s.modRegion r f).stall = s.stall := rfl
@[simp] theorem State.modRegion_inFlight (s : State) (r : RegionId) (f : Region → Region) :
    (s.modRegion r f).inFlight = s.inFlight := rfl
@[simp] theorem State.modRegion_places (s : State) (r : RegionId) (f : Region → Region) :
    (s.modRegion r f).places = s.places := rfl
@[simp] theorem State.modRegion_responses (s : State) (r : RegionId) (f : Region → Region) :
    (s.modRegion r f).responses = s.responses := rfl
@[simp] theorem State.modRegion_forwardQueue (s : State) (r : RegionId) (f : Region → Region) :
    (s.modRegion r f).forwardQueue = s.forwardQueue := rfl
@[simp] theorem State.modRegion_outstanding (s : State) (r : RegionId) (f : Region → Region) :
    (s.modRegion r f).outstanding = s.outstanding := rfl
@[simp] theorem State.modRegion_tracker (s : State) (r : RegionId) (f : Region → Region) :
    (s.modRegion r f).tracker = s.tracker := rfl
@[simp] theorem State.modRegion_channel (s : State) (r : RegionId) (f : Region → Region) :
    (s.modRegion r f).channel = s.channel := rfl
@[simp] theorem State.modRegion_lastGrant (s : State) (r : RegionId) (f : Region → Region) :
    (s.modRegion r f).lastGrant = s.lastGrant := rfl
@[simp] theorem State.modRegion_ready (s : State) (r : RegionId) (f : Region → Region) :
    (s.modRegion r f).ready = s.ready := rfl
@[simp] theorem State.modRegion_nextIssue (s : State) (r : RegionId) (f : Region → Region) :
    (s.modRegion r f).nextIssue = s.nextIssue := rfl
@[simp] theorem State.modRegion_drainTags (s : State) (r : RegionId) (f : Region → Region) :
    (s.modRegion r f).drainTags = s.drainTags := rfl
@[simp] theorem State.modRegion_timebase (s : State) (r : RegionId) (f : Region → Region) :
    (s.modRegion r f).timebase = s.timebase := rfl
@[simp] theorem State.modRegion_hold (s : State) (r : RegionId) (f : Region → Region) :
    (s.modRegion r f).hold = s.hold := rfl
@[simp] theorem State.modRegion_watches (s : State) (r : RegionId) (f : Region → Region) :
    (s.modRegion r f).watches = s.watches := rfl
@[simp] theorem State.modRegion_log (s : State) (r : RegionId) (f : Region → Region) :
    (s.modRegion r f).log = s.log := rfl
@[simp] theorem State.modRegion_events (s : State) (r : RegionId) (f : Region → Region) :
    (s.modRegion r f).events = s.events := rfl
@[simp] theorem State.modRegion_port (s : State) (r : RegionId) (f : Region → Region) :
    (s.modRegion r f).port = s.port := rfl
@[simp] theorem State.modRegion_pending (s : State) (r : RegionId) (f : Region → Region) :
    (s.modRegion r f).pending = s.pending := rfl
@[simp] theorem State.modRegion_draws (s : State) (r : RegionId) (f : Region → Region) :
    (s.modRegion r f).draws = s.draws := rfl

@[simp] theorem State.moveRegions_inReset (s : State) (g : GroupId) (a b : RegionState) :
    (s.moveRegions g a b).inReset = s.inReset := rfl
@[simp] theorem State.moveRegions_hldLow (s : State) (g : GroupId) (a b : RegionState) :
    (s.moveRegions g a b).hldLow = s.hldLow := rfl
@[simp] theorem State.moveRegions_csLow (s : State) (g : GroupId) (a b : RegionState) :
    (s.moveRegions g a b).csLow = s.csLow := rfl
@[simp] theorem State.moveRegions_quiescing (s : State) (g : GroupId) (a b : RegionState) :
    (s.moveRegions g a b).quiescing = s.quiescing := rfl
@[simp] theorem State.moveRegions_groups (s : State) (g : GroupId) (a b : RegionState) :
    (s.moveRegions g a b).groups = s.groups := rfl
@[simp] theorem State.moveRegions_pool (s : State) (g : GroupId) (a b : RegionState) :
    (s.moveRegions g a b).pool = s.pool := rfl
@[simp] theorem State.moveRegions_stallLimit (s : State) (g : GroupId) (a b : RegionState) :
    (s.moveRegions g a b).stallLimit = s.stallLimit := rfl
@[simp] theorem State.moveRegions_stall (s : State) (g : GroupId) (a b : RegionState) :
    (s.moveRegions g a b).stall = s.stall := rfl
@[simp] theorem State.moveRegions_inFlight (s : State) (g : GroupId) (a b : RegionState) :
    (s.moveRegions g a b).inFlight = s.inFlight := rfl
@[simp] theorem State.moveRegions_places (s : State) (g : GroupId) (a b : RegionState) :
    (s.moveRegions g a b).places = s.places := rfl
@[simp] theorem State.moveRegions_responses (s : State) (g : GroupId) (a b : RegionState) :
    (s.moveRegions g a b).responses = s.responses := rfl
@[simp] theorem State.moveRegions_forwardQueue (s : State) (g : GroupId) (a b : RegionState) :
    (s.moveRegions g a b).forwardQueue = s.forwardQueue := rfl
@[simp] theorem State.moveRegions_outstanding (s : State) (g : GroupId) (a b : RegionState) :
    (s.moveRegions g a b).outstanding = s.outstanding := rfl
@[simp] theorem State.moveRegions_tracker (s : State) (g : GroupId) (a b : RegionState) :
    (s.moveRegions g a b).tracker = s.tracker := rfl
@[simp] theorem State.moveRegions_channel (s : State) (g : GroupId) (a b : RegionState) :
    (s.moveRegions g a b).channel = s.channel := rfl
@[simp] theorem State.moveRegions_lastGrant (s : State) (g : GroupId) (a b : RegionState) :
    (s.moveRegions g a b).lastGrant = s.lastGrant := rfl
@[simp] theorem State.moveRegions_ready (s : State) (g : GroupId) (a b : RegionState) :
    (s.moveRegions g a b).ready = s.ready := rfl
@[simp] theorem State.moveRegions_nextIssue (s : State) (g : GroupId) (a b : RegionState) :
    (s.moveRegions g a b).nextIssue = s.nextIssue := rfl
@[simp] theorem State.moveRegions_drainTags (s : State) (g : GroupId) (a b : RegionState) :
    (s.moveRegions g a b).drainTags = s.drainTags := rfl
@[simp] theorem State.moveRegions_timebase (s : State) (g : GroupId) (a b : RegionState) :
    (s.moveRegions g a b).timebase = s.timebase := rfl
@[simp] theorem State.moveRegions_hold (s : State) (g : GroupId) (a b : RegionState) :
    (s.moveRegions g a b).hold = s.hold := rfl
@[simp] theorem State.moveRegions_watches (s : State) (g : GroupId) (a b : RegionState) :
    (s.moveRegions g a b).watches = s.watches := rfl
@[simp] theorem State.moveRegions_log (s : State) (g : GroupId) (a b : RegionState) :
    (s.moveRegions g a b).log = s.log := rfl
@[simp] theorem State.moveRegions_events (s : State) (g : GroupId) (a b : RegionState) :
    (s.moveRegions g a b).events = s.events := rfl
@[simp] theorem State.moveRegions_port (s : State) (g : GroupId) (a b : RegionState) :
    (s.moveRegions g a b).port = s.port := rfl
@[simp] theorem State.moveRegions_pending (s : State) (g : GroupId) (a b : RegionState) :
    (s.moveRegions g a b).pending = s.pending := rfl
@[simp] theorem State.moveRegions_draws (s : State) (g : GroupId) (a b : RegionState) :
    (s.moveRegions g a b).draws = s.draws := rfl

@[simp] theorem State.drew_inReset (s : State) (n : Nat) :
    (s.drew n).inReset = s.inReset := rfl
@[simp] theorem State.drew_hldLow (s : State) (n : Nat) :
    (s.drew n).hldLow = s.hldLow := rfl
@[simp] theorem State.drew_csLow (s : State) (n : Nat) :
    (s.drew n).csLow = s.csLow := rfl
@[simp] theorem State.drew_quiescing (s : State) (n : Nat) :
    (s.drew n).quiescing = s.quiescing := rfl
@[simp] theorem State.drew_regions (s : State) (n : Nat) :
    (s.drew n).regions = s.regions := rfl
@[simp] theorem State.drew_groups (s : State) (n : Nat) :
    (s.drew n).groups = s.groups := rfl
@[simp] theorem State.drew_pool (s : State) (n : Nat) :
    (s.drew n).pool = s.pool := rfl
@[simp] theorem State.drew_stallLimit (s : State) (n : Nat) :
    (s.drew n).stallLimit = s.stallLimit := rfl
@[simp] theorem State.drew_stall (s : State) (n : Nat) :
    (s.drew n).stall = s.stall := rfl
@[simp] theorem State.drew_inFlight (s : State) (n : Nat) :
    (s.drew n).inFlight = s.inFlight := rfl
@[simp] theorem State.drew_places (s : State) (n : Nat) :
    (s.drew n).places = s.places := rfl
@[simp] theorem State.drew_responses (s : State) (n : Nat) :
    (s.drew n).responses = s.responses := rfl
@[simp] theorem State.drew_forwardQueue (s : State) (n : Nat) :
    (s.drew n).forwardQueue = s.forwardQueue := rfl
@[simp] theorem State.drew_outstanding (s : State) (n : Nat) :
    (s.drew n).outstanding = s.outstanding := rfl
@[simp] theorem State.drew_tracker (s : State) (n : Nat) :
    (s.drew n).tracker = s.tracker := rfl
@[simp] theorem State.drew_channel (s : State) (n : Nat) :
    (s.drew n).channel = s.channel := rfl
@[simp] theorem State.drew_lastGrant (s : State) (n : Nat) :
    (s.drew n).lastGrant = s.lastGrant := rfl
@[simp] theorem State.drew_ready (s : State) (n : Nat) :
    (s.drew n).ready = s.ready := rfl
@[simp] theorem State.drew_nextIssue (s : State) (n : Nat) :
    (s.drew n).nextIssue = s.nextIssue := rfl
@[simp] theorem State.drew_drainTags (s : State) (n : Nat) :
    (s.drew n).drainTags = s.drainTags := rfl
@[simp] theorem State.drew_timebase (s : State) (n : Nat) :
    (s.drew n).timebase = s.timebase := rfl
@[simp] theorem State.drew_hold (s : State) (n : Nat) :
    (s.drew n).hold = s.hold := rfl
@[simp] theorem State.drew_watches (s : State) (n : Nat) :
    (s.drew n).watches = s.watches := rfl
@[simp] theorem State.drew_log (s : State) (n : Nat) :
    (s.drew n).log = s.log := rfl
@[simp] theorem State.drew_events (s : State) (n : Nat) :
    (s.drew n).events = s.events := rfl
@[simp] theorem State.drew_port (s : State) (n : Nat) :
    (s.drew n).port = s.port := rfl
@[simp] theorem State.drew_pending (s : State) (n : Nat) :
    (s.drew n).pending = s.pending := rfl
@[simp] theorem State.drew_draws (s : State) (n : Nat) :
    (s.drew n).draws = s.draws + (n - 1) := rfl

@[simp] theorem State.respond_inReset (s : State) (t : UTag) (st : RespStatus) (d : Option Lanes) :
    (s.respond t st d).inReset = s.inReset := rfl
@[simp] theorem State.respond_hldLow (s : State) (t : UTag) (st : RespStatus) (d : Option Lanes) :
    (s.respond t st d).hldLow = s.hldLow := rfl
@[simp] theorem State.respond_csLow (s : State) (t : UTag) (st : RespStatus) (d : Option Lanes) :
    (s.respond t st d).csLow = s.csLow := rfl
@[simp] theorem State.respond_quiescing (s : State) (t : UTag) (st : RespStatus) (d : Option Lanes) :
    (s.respond t st d).quiescing = s.quiescing := rfl
@[simp] theorem State.respond_regions (s : State) (t : UTag) (st : RespStatus) (d : Option Lanes) :
    (s.respond t st d).regions = s.regions := rfl
@[simp] theorem State.respond_groups (s : State) (t : UTag) (st : RespStatus) (d : Option Lanes) :
    (s.respond t st d).groups = s.groups := rfl
@[simp] theorem State.respond_pool (s : State) (t : UTag) (st : RespStatus) (d : Option Lanes) :
    (s.respond t st d).pool = s.pool := rfl
@[simp] theorem State.respond_stallLimit (s : State) (t : UTag) (st : RespStatus) (d : Option Lanes) :
    (s.respond t st d).stallLimit = s.stallLimit := rfl
@[simp] theorem State.respond_stall (s : State) (t : UTag) (st : RespStatus) (d : Option Lanes) :
    (s.respond t st d).stall = s.stall := rfl
@[simp] theorem State.respond_inFlight (s : State) (t : UTag) (st : RespStatus) (d : Option Lanes) :
    (s.respond t st d).inFlight = s.inFlight := rfl
@[simp] theorem State.respond_places (s : State) (t : UTag) (st : RespStatus) (d : Option Lanes) :
    (s.respond t st d).places = s.places := rfl
@[simp] theorem State.respond_responses (s : State) (t : UTag) (st : RespStatus) (d : Option Lanes) :
    (s.respond t st d).responses = s.responses ++ [{ tag := t, status := st, data := d, holdsTag := true }] := rfl
@[simp] theorem State.respond_forwardQueue (s : State) (t : UTag) (st : RespStatus) (d : Option Lanes) :
    (s.respond t st d).forwardQueue = s.forwardQueue := rfl
@[simp] theorem State.respond_outstanding (s : State) (t : UTag) (st : RespStatus) (d : Option Lanes) :
    (s.respond t st d).outstanding = s.outstanding := rfl
@[simp] theorem State.respond_tracker (s : State) (t : UTag) (st : RespStatus) (d : Option Lanes) :
    (s.respond t st d).tracker = s.tracker := rfl
@[simp] theorem State.respond_channel (s : State) (t : UTag) (st : RespStatus) (d : Option Lanes) :
    (s.respond t st d).channel = s.channel := rfl
@[simp] theorem State.respond_lastGrant (s : State) (t : UTag) (st : RespStatus) (d : Option Lanes) :
    (s.respond t st d).lastGrant = s.lastGrant := rfl
@[simp] theorem State.respond_ready (s : State) (t : UTag) (st : RespStatus) (d : Option Lanes) :
    (s.respond t st d).ready = s.ready := rfl
@[simp] theorem State.respond_nextIssue (s : State) (t : UTag) (st : RespStatus) (d : Option Lanes) :
    (s.respond t st d).nextIssue = s.nextIssue := rfl
@[simp] theorem State.respond_drainTags (s : State) (t : UTag) (st : RespStatus) (d : Option Lanes) :
    (s.respond t st d).drainTags = s.drainTags := rfl
@[simp] theorem State.respond_timebase (s : State) (t : UTag) (st : RespStatus) (d : Option Lanes) :
    (s.respond t st d).timebase = s.timebase := rfl
@[simp] theorem State.respond_hold (s : State) (t : UTag) (st : RespStatus) (d : Option Lanes) :
    (s.respond t st d).hold = s.hold := rfl
@[simp] theorem State.respond_watches (s : State) (t : UTag) (st : RespStatus) (d : Option Lanes) :
    (s.respond t st d).watches = s.watches := rfl
@[simp] theorem State.respond_log (s : State) (t : UTag) (st : RespStatus) (d : Option Lanes) :
    (s.respond t st d).log = s.log := rfl
@[simp] theorem State.respond_events (s : State) (t : UTag) (st : RespStatus) (d : Option Lanes) :
    (s.respond t st d).events = s.events := rfl
@[simp] theorem State.respond_port (s : State) (t : UTag) (st : RespStatus) (d : Option Lanes) :
    (s.respond t st d).port = s.port := rfl
@[simp] theorem State.respond_pending (s : State) (t : UTag) (st : RespStatus) (d : Option Lanes) :
    (s.respond t st d).pending = s.pending := rfl
@[simp] theorem State.respond_draws (s : State) (t : UTag) (st : RespStatus) (d : Option Lanes) :
    (s.respond t st d).draws = s.draws := rfl

@[simp] theorem State.setWatchCounter_inReset (s : State) (w : Fin 4) (n : Nat) :
    (s.setWatchCounter w n).inReset = s.inReset := rfl
@[simp] theorem State.setWatchCounter_hldLow (s : State) (w : Fin 4) (n : Nat) :
    (s.setWatchCounter w n).hldLow = s.hldLow := rfl
@[simp] theorem State.setWatchCounter_csLow (s : State) (w : Fin 4) (n : Nat) :
    (s.setWatchCounter w n).csLow = s.csLow := rfl
@[simp] theorem State.setWatchCounter_quiescing (s : State) (w : Fin 4) (n : Nat) :
    (s.setWatchCounter w n).quiescing = s.quiescing := rfl
@[simp] theorem State.setWatchCounter_regions (s : State) (w : Fin 4) (n : Nat) :
    (s.setWatchCounter w n).regions = s.regions := rfl
@[simp] theorem State.setWatchCounter_groups (s : State) (w : Fin 4) (n : Nat) :
    (s.setWatchCounter w n).groups = s.groups := rfl
@[simp] theorem State.setWatchCounter_pool (s : State) (w : Fin 4) (n : Nat) :
    (s.setWatchCounter w n).pool = s.pool := rfl
@[simp] theorem State.setWatchCounter_stallLimit (s : State) (w : Fin 4) (n : Nat) :
    (s.setWatchCounter w n).stallLimit = s.stallLimit := rfl
@[simp] theorem State.setWatchCounter_stall (s : State) (w : Fin 4) (n : Nat) :
    (s.setWatchCounter w n).stall = s.stall := rfl
@[simp] theorem State.setWatchCounter_inFlight (s : State) (w : Fin 4) (n : Nat) :
    (s.setWatchCounter w n).inFlight = s.inFlight := rfl
@[simp] theorem State.setWatchCounter_places (s : State) (w : Fin 4) (n : Nat) :
    (s.setWatchCounter w n).places = s.places := rfl
@[simp] theorem State.setWatchCounter_responses (s : State) (w : Fin 4) (n : Nat) :
    (s.setWatchCounter w n).responses = s.responses := rfl
@[simp] theorem State.setWatchCounter_forwardQueue (s : State) (w : Fin 4) (n : Nat) :
    (s.setWatchCounter w n).forwardQueue = s.forwardQueue := rfl
@[simp] theorem State.setWatchCounter_outstanding (s : State) (w : Fin 4) (n : Nat) :
    (s.setWatchCounter w n).outstanding = s.outstanding := rfl
@[simp] theorem State.setWatchCounter_tracker (s : State) (w : Fin 4) (n : Nat) :
    (s.setWatchCounter w n).tracker = s.tracker := rfl
@[simp] theorem State.setWatchCounter_channel (s : State) (w : Fin 4) (n : Nat) :
    (s.setWatchCounter w n).channel = s.channel := rfl
@[simp] theorem State.setWatchCounter_lastGrant (s : State) (w : Fin 4) (n : Nat) :
    (s.setWatchCounter w n).lastGrant = s.lastGrant := rfl
@[simp] theorem State.setWatchCounter_ready (s : State) (w : Fin 4) (n : Nat) :
    (s.setWatchCounter w n).ready = s.ready := rfl
@[simp] theorem State.setWatchCounter_nextIssue (s : State) (w : Fin 4) (n : Nat) :
    (s.setWatchCounter w n).nextIssue = s.nextIssue := rfl
@[simp] theorem State.setWatchCounter_drainTags (s : State) (w : Fin 4) (n : Nat) :
    (s.setWatchCounter w n).drainTags = s.drainTags := rfl
@[simp] theorem State.setWatchCounter_timebase (s : State) (w : Fin 4) (n : Nat) :
    (s.setWatchCounter w n).timebase = s.timebase := rfl
@[simp] theorem State.setWatchCounter_hold (s : State) (w : Fin 4) (n : Nat) :
    (s.setWatchCounter w n).hold = s.hold := rfl
@[simp] theorem State.setWatchCounter_watches (s : State) (w : Fin 4) (n : Nat) :
    (s.setWatchCounter w n).watches = s.watches.set w { s.watches[w] with counter := n } := rfl
@[simp] theorem State.setWatchCounter_log (s : State) (w : Fin 4) (n : Nat) :
    (s.setWatchCounter w n).log = s.log := rfl
@[simp] theorem State.setWatchCounter_events (s : State) (w : Fin 4) (n : Nat) :
    (s.setWatchCounter w n).events = s.events := rfl
@[simp] theorem State.setWatchCounter_port (s : State) (w : Fin 4) (n : Nat) :
    (s.setWatchCounter w n).port = s.port := rfl
@[simp] theorem State.setWatchCounter_pending (s : State) (w : Fin 4) (n : Nat) :
    (s.setWatchCounter w n).pending = s.pending := rfl
@[simp] theorem State.setWatchCounter_draws (s : State) (w : Fin 4) (n : Nat) :
    (s.setWatchCounter w n).draws = s.draws := rfl

@[simp] theorem State.enqueue_inReset (s : State) (t : UTag) (k : ReqKind) (a : Addr) (z : Size) (d : Lanes) :
    (s.enqueue t k a z d).inReset = s.inReset := rfl
@[simp] theorem State.enqueue_hldLow (s : State) (t : UTag) (k : ReqKind) (a : Addr) (z : Size) (d : Lanes) :
    (s.enqueue t k a z d).hldLow = s.hldLow := rfl
@[simp] theorem State.enqueue_csLow (s : State) (t : UTag) (k : ReqKind) (a : Addr) (z : Size) (d : Lanes) :
    (s.enqueue t k a z d).csLow = s.csLow := rfl
@[simp] theorem State.enqueue_quiescing (s : State) (t : UTag) (k : ReqKind) (a : Addr) (z : Size) (d : Lanes) :
    (s.enqueue t k a z d).quiescing = s.quiescing := rfl
@[simp] theorem State.enqueue_regions (s : State) (t : UTag) (k : ReqKind) (a : Addr) (z : Size) (d : Lanes) :
    (s.enqueue t k a z d).regions = s.regions := rfl
@[simp] theorem State.enqueue_groups (s : State) (t : UTag) (k : ReqKind) (a : Addr) (z : Size) (d : Lanes) :
    (s.enqueue t k a z d).groups = s.groups := rfl
@[simp] theorem State.enqueue_pool (s : State) (t : UTag) (k : ReqKind) (a : Addr) (z : Size) (d : Lanes) :
    (s.enqueue t k a z d).pool = s.pool := rfl
@[simp] theorem State.enqueue_stallLimit (s : State) (t : UTag) (k : ReqKind) (a : Addr) (z : Size) (d : Lanes) :
    (s.enqueue t k a z d).stallLimit = s.stallLimit := rfl
@[simp] theorem State.enqueue_stall (s : State) (t : UTag) (k : ReqKind) (a : Addr) (z : Size) (d : Lanes) :
    (s.enqueue t k a z d).stall = s.stall := rfl
@[simp] theorem State.enqueue_inFlight (s : State) (t : UTag) (k : ReqKind) (a : Addr) (z : Size) (d : Lanes) :
    (s.enqueue t k a z d).inFlight = s.inFlight := rfl
@[simp] theorem State.enqueue_places (s : State) (t : UTag) (k : ReqKind) (a : Addr) (z : Size) (d : Lanes) :
    (s.enqueue t k a z d).places = s.places := rfl
@[simp] theorem State.enqueue_responses (s : State) (t : UTag) (k : ReqKind) (a : Addr) (z : Size) (d : Lanes) :
    (s.enqueue t k a z d).responses = s.responses := rfl
@[simp] theorem State.enqueue_forwardQueue (s : State) (t : UTag) (k : ReqKind) (a : Addr) (z : Size) (d : Lanes) :
    (s.enqueue t k a z d).forwardQueue = s.forwardQueue ++ [{ tag := t, kind := k, addr := a, size := z, data := d, mark := none }] := rfl
@[simp] theorem State.enqueue_outstanding (s : State) (t : UTag) (k : ReqKind) (a : Addr) (z : Size) (d : Lanes) :
    (s.enqueue t k a z d).outstanding = s.outstanding := rfl
@[simp] theorem State.enqueue_tracker (s : State) (t : UTag) (k : ReqKind) (a : Addr) (z : Size) (d : Lanes) :
    (s.enqueue t k a z d).tracker = s.tracker := rfl
@[simp] theorem State.enqueue_channel (s : State) (t : UTag) (k : ReqKind) (a : Addr) (z : Size) (d : Lanes) :
    (s.enqueue t k a z d).channel = s.channel := rfl
@[simp] theorem State.enqueue_lastGrant (s : State) (t : UTag) (k : ReqKind) (a : Addr) (z : Size) (d : Lanes) :
    (s.enqueue t k a z d).lastGrant = s.lastGrant := rfl
@[simp] theorem State.enqueue_ready (s : State) (t : UTag) (k : ReqKind) (a : Addr) (z : Size) (d : Lanes) :
    (s.enqueue t k a z d).ready = s.ready := rfl
@[simp] theorem State.enqueue_nextIssue (s : State) (t : UTag) (k : ReqKind) (a : Addr) (z : Size) (d : Lanes) :
    (s.enqueue t k a z d).nextIssue = s.nextIssue := rfl
@[simp] theorem State.enqueue_drainTags (s : State) (t : UTag) (k : ReqKind) (a : Addr) (z : Size) (d : Lanes) :
    (s.enqueue t k a z d).drainTags = s.drainTags := rfl
@[simp] theorem State.enqueue_timebase (s : State) (t : UTag) (k : ReqKind) (a : Addr) (z : Size) (d : Lanes) :
    (s.enqueue t k a z d).timebase = s.timebase := rfl
@[simp] theorem State.enqueue_hold (s : State) (t : UTag) (k : ReqKind) (a : Addr) (z : Size) (d : Lanes) :
    (s.enqueue t k a z d).hold = s.hold := rfl
@[simp] theorem State.enqueue_watches (s : State) (t : UTag) (k : ReqKind) (a : Addr) (z : Size) (d : Lanes) :
    (s.enqueue t k a z d).watches = s.watches := rfl
@[simp] theorem State.enqueue_log (s : State) (t : UTag) (k : ReqKind) (a : Addr) (z : Size) (d : Lanes) :
    (s.enqueue t k a z d).log = s.log := rfl
@[simp] theorem State.enqueue_events (s : State) (t : UTag) (k : ReqKind) (a : Addr) (z : Size) (d : Lanes) :
    (s.enqueue t k a z d).events = s.events := rfl
@[simp] theorem State.enqueue_port (s : State) (t : UTag) (k : ReqKind) (a : Addr) (z : Size) (d : Lanes) :
    (s.enqueue t k a z d).port = s.port := rfl
@[simp] theorem State.enqueue_pending (s : State) (t : UTag) (k : ReqKind) (a : Addr) (z : Size) (d : Lanes) :
    (s.enqueue t k a z d).pending = s.pending := rfl
@[simp] theorem State.enqueue_draws (s : State) (t : UTag) (k : ReqKind) (a : Addr) (z : Size) (d : Lanes) :
    (s.enqueue t k a z d).draws = s.draws := rfl

@[simp] theorem State.enterStall_inReset (s : State) (t : UTag) (a : Addr) (z : Size) (d : Lanes) (r : RegionId) (c : StallCause) :
    (s.enterStall t a z d r c).inReset = s.inReset := rfl
@[simp] theorem State.enterStall_hldLow (s : State) (t : UTag) (a : Addr) (z : Size) (d : Lanes) (r : RegionId) (c : StallCause) :
    (s.enterStall t a z d r c).hldLow = s.hldLow := rfl
@[simp] theorem State.enterStall_csLow (s : State) (t : UTag) (a : Addr) (z : Size) (d : Lanes) (r : RegionId) (c : StallCause) :
    (s.enterStall t a z d r c).csLow = s.csLow := rfl
@[simp] theorem State.enterStall_quiescing (s : State) (t : UTag) (a : Addr) (z : Size) (d : Lanes) (r : RegionId) (c : StallCause) :
    (s.enterStall t a z d r c).quiescing = s.quiescing := rfl
@[simp] theorem State.enterStall_regions (s : State) (t : UTag) (a : Addr) (z : Size) (d : Lanes) (r : RegionId) (c : StallCause) :
    (s.enterStall t a z d r c).regions = s.regions := rfl
@[simp] theorem State.enterStall_groups (s : State) (t : UTag) (a : Addr) (z : Size) (d : Lanes) (r : RegionId) (c : StallCause) :
    (s.enterStall t a z d r c).groups = s.groups := rfl
@[simp] theorem State.enterStall_pool (s : State) (t : UTag) (a : Addr) (z : Size) (d : Lanes) (r : RegionId) (c : StallCause) :
    (s.enterStall t a z d r c).pool = s.pool := rfl
@[simp] theorem State.enterStall_stallLimit (s : State) (t : UTag) (a : Addr) (z : Size) (d : Lanes) (r : RegionId) (c : StallCause) :
    (s.enterStall t a z d r c).stallLimit = s.stallLimit := rfl
@[simp] theorem State.enterStall_stall (s : State) (t : UTag) (a : Addr) (z : Size) (d : Lanes) (r : RegionId) (c : StallCause) :
    (s.enterStall t a z d r c).stall = some { tag := t, addr := a, size := z, data := d, region := r, cause := c, elapsed := 0 } := rfl
@[simp] theorem State.enterStall_inFlight (s : State) (t : UTag) (a : Addr) (z : Size) (d : Lanes) (r : RegionId) (c : StallCause) :
    (s.enterStall t a z d r c).inFlight = s.inFlight := rfl
@[simp] theorem State.enterStall_places (s : State) (t : UTag) (a : Addr) (z : Size) (d : Lanes) (r : RegionId) (c : StallCause) :
    (s.enterStall t a z d r c).places = s.places := rfl
@[simp] theorem State.enterStall_responses (s : State) (t : UTag) (a : Addr) (z : Size) (d : Lanes) (r : RegionId) (c : StallCause) :
    (s.enterStall t a z d r c).responses = s.responses := rfl
@[simp] theorem State.enterStall_forwardQueue (s : State) (t : UTag) (a : Addr) (z : Size) (d : Lanes) (r : RegionId) (c : StallCause) :
    (s.enterStall t a z d r c).forwardQueue = s.forwardQueue := rfl
@[simp] theorem State.enterStall_outstanding (s : State) (t : UTag) (a : Addr) (z : Size) (d : Lanes) (r : RegionId) (c : StallCause) :
    (s.enterStall t a z d r c).outstanding = s.outstanding := rfl
@[simp] theorem State.enterStall_tracker (s : State) (t : UTag) (a : Addr) (z : Size) (d : Lanes) (r : RegionId) (c : StallCause) :
    (s.enterStall t a z d r c).tracker = s.tracker := rfl
@[simp] theorem State.enterStall_channel (s : State) (t : UTag) (a : Addr) (z : Size) (d : Lanes) (r : RegionId) (c : StallCause) :
    (s.enterStall t a z d r c).channel = s.channel := rfl
@[simp] theorem State.enterStall_lastGrant (s : State) (t : UTag) (a : Addr) (z : Size) (d : Lanes) (r : RegionId) (c : StallCause) :
    (s.enterStall t a z d r c).lastGrant = s.lastGrant := rfl
@[simp] theorem State.enterStall_ready (s : State) (t : UTag) (a : Addr) (z : Size) (d : Lanes) (r : RegionId) (c : StallCause) :
    (s.enterStall t a z d r c).ready = s.ready := rfl
@[simp] theorem State.enterStall_nextIssue (s : State) (t : UTag) (a : Addr) (z : Size) (d : Lanes) (r : RegionId) (c : StallCause) :
    (s.enterStall t a z d r c).nextIssue = s.nextIssue := rfl
@[simp] theorem State.enterStall_drainTags (s : State) (t : UTag) (a : Addr) (z : Size) (d : Lanes) (r : RegionId) (c : StallCause) :
    (s.enterStall t a z d r c).drainTags = s.drainTags := rfl
@[simp] theorem State.enterStall_timebase (s : State) (t : UTag) (a : Addr) (z : Size) (d : Lanes) (r : RegionId) (c : StallCause) :
    (s.enterStall t a z d r c).timebase = s.timebase := rfl
@[simp] theorem State.enterStall_hold (s : State) (t : UTag) (a : Addr) (z : Size) (d : Lanes) (r : RegionId) (c : StallCause) :
    (s.enterStall t a z d r c).hold = s.hold := rfl
@[simp] theorem State.enterStall_watches (s : State) (t : UTag) (a : Addr) (z : Size) (d : Lanes) (r : RegionId) (c : StallCause) :
    (s.enterStall t a z d r c).watches = s.watches := rfl
@[simp] theorem State.enterStall_log (s : State) (t : UTag) (a : Addr) (z : Size) (d : Lanes) (r : RegionId) (c : StallCause) :
    (s.enterStall t a z d r c).log = s.log := rfl
@[simp] theorem State.enterStall_events (s : State) (t : UTag) (a : Addr) (z : Size) (d : Lanes) (r : RegionId) (c : StallCause) :
    (s.enterStall t a z d r c).events = s.events := rfl
@[simp] theorem State.enterStall_port (s : State) (t : UTag) (a : Addr) (z : Size) (d : Lanes) (r : RegionId) (c : StallCause) :
    (s.enterStall t a z d r c).port = s.port := rfl
@[simp] theorem State.enterStall_pending (s : State) (t : UTag) (a : Addr) (z : Size) (d : Lanes) (r : RegionId) (c : StallCause) :
    (s.enterStall t a z d r c).pending = s.pending := rfl
@[simp] theorem State.enterStall_draws (s : State) (t : UTag) (a : Addr) (z : Size) (d : Lanes) (r : RegionId) (c : StallCause) :
    (s.enterStall t a z d r c).draws = s.draws := rfl

@[simp] theorem State.retag_inReset (s : State) (g : GroupId) :
    (s.retag g).inReset = s.inReset := rfl
@[simp] theorem State.retag_hldLow (s : State) (g : GroupId) :
    (s.retag g).hldLow = s.hldLow := rfl
@[simp] theorem State.retag_csLow (s : State) (g : GroupId) :
    (s.retag g).csLow = s.csLow := rfl
@[simp] theorem State.retag_quiescing (s : State) (g : GroupId) :
    (s.retag g).quiescing = s.quiescing := rfl
@[simp] theorem State.retag_regions (s : State) (g : GroupId) :
    (s.retag g).regions = s.regions := rfl
@[simp] theorem State.retag_groups (s : State) (g : GroupId) :
    (s.retag g).groups = s.groups := rfl
@[simp] theorem State.retag_stallLimit (s : State) (g : GroupId) :
    (s.retag g).stallLimit = s.stallLimit := rfl
@[simp] theorem State.retag_stall (s : State) (g : GroupId) :
    (s.retag g).stall = s.stall := rfl
@[simp] theorem State.retag_inFlight (s : State) (g : GroupId) :
    (s.retag g).inFlight = s.inFlight := rfl
@[simp] theorem State.retag_places (s : State) (g : GroupId) :
    (s.retag g).places = s.places := rfl
@[simp] theorem State.retag_responses (s : State) (g : GroupId) :
    (s.retag g).responses = s.responses := rfl
@[simp] theorem State.retag_forwardQueue (s : State) (g : GroupId) :
    (s.retag g).forwardQueue = s.forwardQueue := rfl
@[simp] theorem State.retag_outstanding (s : State) (g : GroupId) :
    (s.retag g).outstanding = s.outstanding := rfl
@[simp] theorem State.retag_tracker (s : State) (g : GroupId) :
    (s.retag g).tracker = s.tracker := rfl
@[simp] theorem State.retag_channel (s : State) (g : GroupId) :
    (s.retag g).channel = s.channel := rfl
@[simp] theorem State.retag_lastGrant (s : State) (g : GroupId) :
    (s.retag g).lastGrant = s.lastGrant := rfl
@[simp] theorem State.retag_ready (s : State) (g : GroupId) :
    (s.retag g).ready = s.ready := rfl
@[simp] theorem State.retag_nextIssue (s : State) (g : GroupId) :
    (s.retag g).nextIssue = s.nextIssue := rfl
@[simp] theorem State.retag_drainTags (s : State) (g : GroupId) :
    (s.retag g).drainTags = s.drainTags := rfl
@[simp] theorem State.retag_timebase (s : State) (g : GroupId) :
    (s.retag g).timebase = s.timebase := rfl
@[simp] theorem State.retag_hold (s : State) (g : GroupId) :
    (s.retag g).hold = s.hold := rfl
@[simp] theorem State.retag_watches (s : State) (g : GroupId) :
    (s.retag g).watches = s.watches := rfl
@[simp] theorem State.retag_log (s : State) (g : GroupId) :
    (s.retag g).log = s.log := rfl
@[simp] theorem State.retag_events (s : State) (g : GroupId) :
    (s.retag g).events = s.events := rfl
@[simp] theorem State.retag_port (s : State) (g : GroupId) :
    (s.retag g).port = s.port := rfl
@[simp] theorem State.retag_pending (s : State) (g : GroupId) :
    (s.retag g).pending = s.pending := rfl
@[simp] theorem State.retag_draws (s : State) (g : GroupId) :
    (s.retag g).draws = s.draws := rfl

@[simp] theorem State.discardOpen_inReset (s : State) (g : GroupId) :
    (s.discardOpen g).inReset = s.inReset := rfl
@[simp] theorem State.discardOpen_hldLow (s : State) (g : GroupId) :
    (s.discardOpen g).hldLow = s.hldLow := rfl
@[simp] theorem State.discardOpen_csLow (s : State) (g : GroupId) :
    (s.discardOpen g).csLow = s.csLow := rfl
@[simp] theorem State.discardOpen_quiescing (s : State) (g : GroupId) :
    (s.discardOpen g).quiescing = s.quiescing := rfl
@[simp] theorem State.discardOpen_regions (s : State) (g : GroupId) :
    (s.discardOpen g).regions = s.regions := rfl
@[simp] theorem State.discardOpen_groups (s : State) (g : GroupId) :
    (s.discardOpen g).groups = s.groups := rfl
@[simp] theorem State.discardOpen_pool (s : State) (g : GroupId) :
    (s.discardOpen g).pool = s.pool.filter fun e => !e.isOf g .opened := rfl
@[simp] theorem State.discardOpen_stallLimit (s : State) (g : GroupId) :
    (s.discardOpen g).stallLimit = s.stallLimit := rfl
@[simp] theorem State.discardOpen_stall (s : State) (g : GroupId) :
    (s.discardOpen g).stall = s.stall := rfl
@[simp] theorem State.discardOpen_inFlight (s : State) (g : GroupId) :
    (s.discardOpen g).inFlight = s.inFlight := rfl
@[simp] theorem State.discardOpen_places (s : State) (g : GroupId) :
    (s.discardOpen g).places = s.places := rfl
@[simp] theorem State.discardOpen_responses (s : State) (g : GroupId) :
    (s.discardOpen g).responses = s.responses := rfl
@[simp] theorem State.discardOpen_forwardQueue (s : State) (g : GroupId) :
    (s.discardOpen g).forwardQueue = s.forwardQueue := rfl
@[simp] theorem State.discardOpen_outstanding (s : State) (g : GroupId) :
    (s.discardOpen g).outstanding = s.outstanding := rfl
@[simp] theorem State.discardOpen_tracker (s : State) (g : GroupId) :
    (s.discardOpen g).tracker = s.tracker := rfl
@[simp] theorem State.discardOpen_channel (s : State) (g : GroupId) :
    (s.discardOpen g).channel = s.channel := rfl
@[simp] theorem State.discardOpen_lastGrant (s : State) (g : GroupId) :
    (s.discardOpen g).lastGrant = s.lastGrant := rfl
@[simp] theorem State.discardOpen_ready (s : State) (g : GroupId) :
    (s.discardOpen g).ready = s.ready := rfl
@[simp] theorem State.discardOpen_nextIssue (s : State) (g : GroupId) :
    (s.discardOpen g).nextIssue = s.nextIssue := rfl
@[simp] theorem State.discardOpen_drainTags (s : State) (g : GroupId) :
    (s.discardOpen g).drainTags = s.drainTags := rfl
@[simp] theorem State.discardOpen_timebase (s : State) (g : GroupId) :
    (s.discardOpen g).timebase = s.timebase := rfl
@[simp] theorem State.discardOpen_hold (s : State) (g : GroupId) :
    (s.discardOpen g).hold = s.hold := rfl
@[simp] theorem State.discardOpen_watches (s : State) (g : GroupId) :
    (s.discardOpen g).watches = s.watches := rfl
@[simp] theorem State.discardOpen_log (s : State) (g : GroupId) :
    (s.discardOpen g).log = s.log := rfl
@[simp] theorem State.discardOpen_port (s : State) (g : GroupId) :
    (s.discardOpen g).port = s.port := rfl
@[simp] theorem State.discardOpen_pending (s : State) (g : GroupId) :
    (s.discardOpen g).pending = s.pending := rfl
@[simp] theorem State.discardOpen_draws (s : State) (g : GroupId) :
    (s.discardOpen g).draws = s.draws := rfl

@[simp] theorem State.forwardStalled_inReset (s : State) (w : StalledWrite) :
    (s.forwardStalled w).inReset = s.inReset := rfl
@[simp] theorem State.forwardStalled_hldLow (s : State) (w : StalledWrite) :
    (s.forwardStalled w).hldLow = s.hldLow := rfl
@[simp] theorem State.forwardStalled_csLow (s : State) (w : StalledWrite) :
    (s.forwardStalled w).csLow = s.csLow := rfl
@[simp] theorem State.forwardStalled_quiescing (s : State) (w : StalledWrite) :
    (s.forwardStalled w).quiescing = s.quiescing := rfl
@[simp] theorem State.forwardStalled_regions (s : State) (w : StalledWrite) :
    (s.forwardStalled w).regions = s.regions := rfl
@[simp] theorem State.forwardStalled_groups (s : State) (w : StalledWrite) :
    (s.forwardStalled w).groups = s.groups := rfl
@[simp] theorem State.forwardStalled_pool (s : State) (w : StalledWrite) :
    (s.forwardStalled w).pool = s.pool := rfl
@[simp] theorem State.forwardStalled_stallLimit (s : State) (w : StalledWrite) :
    (s.forwardStalled w).stallLimit = s.stallLimit := rfl
@[simp] theorem State.forwardStalled_stall (s : State) (w : StalledWrite) :
    (s.forwardStalled w).stall = none := rfl
@[simp] theorem State.forwardStalled_inFlight (s : State) (w : StalledWrite) :
    (s.forwardStalled w).inFlight = s.inFlight := rfl
@[simp] theorem State.forwardStalled_places (s : State) (w : StalledWrite) :
    (s.forwardStalled w).places = s.places := rfl
@[simp] theorem State.forwardStalled_responses (s : State) (w : StalledWrite) :
    (s.forwardStalled w).responses = s.responses := rfl
@[simp] theorem State.forwardStalled_forwardQueue (s : State) (w : StalledWrite) :
    (s.forwardStalled w).forwardQueue = s.forwardQueue ++ [w.asForward] := rfl
@[simp] theorem State.forwardStalled_outstanding (s : State) (w : StalledWrite) :
    (s.forwardStalled w).outstanding = s.outstanding := rfl
@[simp] theorem State.forwardStalled_tracker (s : State) (w : StalledWrite) :
    (s.forwardStalled w).tracker = s.tracker := rfl
@[simp] theorem State.forwardStalled_channel (s : State) (w : StalledWrite) :
    (s.forwardStalled w).channel = s.channel := rfl
@[simp] theorem State.forwardStalled_lastGrant (s : State) (w : StalledWrite) :
    (s.forwardStalled w).lastGrant = s.lastGrant := rfl
@[simp] theorem State.forwardStalled_ready (s : State) (w : StalledWrite) :
    (s.forwardStalled w).ready = s.ready := rfl
@[simp] theorem State.forwardStalled_nextIssue (s : State) (w : StalledWrite) :
    (s.forwardStalled w).nextIssue = s.nextIssue := rfl
@[simp] theorem State.forwardStalled_drainTags (s : State) (w : StalledWrite) :
    (s.forwardStalled w).drainTags = s.drainTags := rfl
@[simp] theorem State.forwardStalled_timebase (s : State) (w : StalledWrite) :
    (s.forwardStalled w).timebase = s.timebase := rfl
@[simp] theorem State.forwardStalled_hold (s : State) (w : StalledWrite) :
    (s.forwardStalled w).hold = s.hold := rfl
@[simp] theorem State.forwardStalled_watches (s : State) (w : StalledWrite) :
    (s.forwardStalled w).watches = s.watches := rfl
@[simp] theorem State.forwardStalled_log (s : State) (w : StalledWrite) :
    (s.forwardStalled w).log = s.log := rfl
@[simp] theorem State.forwardStalled_events (s : State) (w : StalledWrite) :
    (s.forwardStalled w).events = s.events := rfl
@[simp] theorem State.forwardStalled_port (s : State) (w : StalledWrite) :
    (s.forwardStalled w).port = s.port := rfl
@[simp] theorem State.forwardStalled_pending (s : State) (w : StalledWrite) :
    (s.forwardStalled w).pending = s.pending := rfl
@[simp] theorem State.forwardStalled_draws (s : State) (w : StalledWrite) :
    (s.forwardStalled w).draws = s.draws := rfl

@[simp] theorem State.freeSealed_inReset (s : State) (b : DrainBinding) :
    (s.freeSealed b).inReset = s.inReset := rfl
@[simp] theorem State.freeSealed_hldLow (s : State) (b : DrainBinding) :
    (s.freeSealed b).hldLow = s.hldLow := rfl
@[simp] theorem State.freeSealed_csLow (s : State) (b : DrainBinding) :
    (s.freeSealed b).csLow = s.csLow := rfl
@[simp] theorem State.freeSealed_quiescing (s : State) (b : DrainBinding) :
    (s.freeSealed b).quiescing = s.quiescing := rfl
@[simp] theorem State.freeSealed_regions (s : State) (b : DrainBinding) :
    (s.freeSealed b).regions = s.regions := rfl
@[simp] theorem State.freeSealed_groups (s : State) (b : DrainBinding) :
    (s.freeSealed b).groups = s.groups := rfl
@[simp] theorem State.freeSealed_stallLimit (s : State) (b : DrainBinding) :
    (s.freeSealed b).stallLimit = s.stallLimit := rfl
@[simp] theorem State.freeSealed_stall (s : State) (b : DrainBinding) :
    (s.freeSealed b).stall = s.stall := rfl
@[simp] theorem State.freeSealed_inFlight (s : State) (b : DrainBinding) :
    (s.freeSealed b).inFlight = s.inFlight := rfl
@[simp] theorem State.freeSealed_places (s : State) (b : DrainBinding) :
    (s.freeSealed b).places = s.places := rfl
@[simp] theorem State.freeSealed_responses (s : State) (b : DrainBinding) :
    (s.freeSealed b).responses = s.responses := rfl
@[simp] theorem State.freeSealed_forwardQueue (s : State) (b : DrainBinding) :
    (s.freeSealed b).forwardQueue = s.forwardQueue := rfl
@[simp] theorem State.freeSealed_outstanding (s : State) (b : DrainBinding) :
    (s.freeSealed b).outstanding = s.outstanding := rfl
@[simp] theorem State.freeSealed_tracker (s : State) (b : DrainBinding) :
    (s.freeSealed b).tracker = s.tracker := rfl
@[simp] theorem State.freeSealed_channel (s : State) (b : DrainBinding) :
    (s.freeSealed b).channel = s.channel := rfl
@[simp] theorem State.freeSealed_lastGrant (s : State) (b : DrainBinding) :
    (s.freeSealed b).lastGrant = s.lastGrant := rfl
@[simp] theorem State.freeSealed_ready (s : State) (b : DrainBinding) :
    (s.freeSealed b).ready = s.ready := rfl
@[simp] theorem State.freeSealed_nextIssue (s : State) (b : DrainBinding) :
    (s.freeSealed b).nextIssue = s.nextIssue := rfl
@[simp] theorem State.freeSealed_drainTags (s : State) (b : DrainBinding) :
    (s.freeSealed b).drainTags = s.drainTags := rfl
@[simp] theorem State.freeSealed_timebase (s : State) (b : DrainBinding) :
    (s.freeSealed b).timebase = s.timebase := rfl
@[simp] theorem State.freeSealed_hold (s : State) (b : DrainBinding) :
    (s.freeSealed b).hold = s.hold := rfl
@[simp] theorem State.freeSealed_watches (s : State) (b : DrainBinding) :
    (s.freeSealed b).watches = s.watches := rfl
@[simp] theorem State.freeSealed_log (s : State) (b : DrainBinding) :
    (s.freeSealed b).log = s.log := rfl
@[simp] theorem State.freeSealed_events (s : State) (b : DrainBinding) :
    (s.freeSealed b).events = s.events := rfl
@[simp] theorem State.freeSealed_port (s : State) (b : DrainBinding) :
    (s.freeSealed b).port = s.port := rfl
@[simp] theorem State.freeSealed_pending (s : State) (b : DrainBinding) :
    (s.freeSealed b).pending = s.pending := rfl
@[simp] theorem State.freeSealed_draws (s : State) (b : DrainBinding) :
    (s.freeSealed b).draws = s.draws := rfl

@[simp] theorem State.markFence_inReset (s : State) (g : GroupId) :
    (s.markFence g).inReset = s.inReset := rfl
@[simp] theorem State.markFence_hldLow (s : State) (g : GroupId) :
    (s.markFence g).hldLow = s.hldLow := rfl
@[simp] theorem State.markFence_csLow (s : State) (g : GroupId) :
    (s.markFence g).csLow = s.csLow := rfl
@[simp] theorem State.markFence_quiescing (s : State) (g : GroupId) :
    (s.markFence g).quiescing = s.quiescing := rfl
@[simp] theorem State.markFence_regions (s : State) (g : GroupId) :
    (s.markFence g).regions = s.regions := rfl
@[simp] theorem State.markFence_groups (s : State) (g : GroupId) :
    (s.markFence g).groups = s.groups := rfl
@[simp] theorem State.markFence_pool (s : State) (g : GroupId) :
    (s.markFence g).pool = s.pool := rfl
@[simp] theorem State.markFence_stallLimit (s : State) (g : GroupId) :
    (s.markFence g).stallLimit = s.stallLimit := rfl
@[simp] theorem State.markFence_stall (s : State) (g : GroupId) :
    (s.markFence g).stall = s.stall := rfl
@[simp] theorem State.markFence_inFlight (s : State) (g : GroupId) :
    (s.markFence g).inFlight = s.inFlight := rfl
@[simp] theorem State.markFence_places (s : State) (g : GroupId) :
    (s.markFence g).places = s.places := rfl
@[simp] theorem State.markFence_responses (s : State) (g : GroupId) :
    (s.markFence g).responses = s.responses := rfl
@[simp] theorem State.markFence_channel (s : State) (g : GroupId) :
    (s.markFence g).channel = s.channel := rfl
@[simp] theorem State.markFence_lastGrant (s : State) (g : GroupId) :
    (s.markFence g).lastGrant = s.lastGrant := rfl
@[simp] theorem State.markFence_ready (s : State) (g : GroupId) :
    (s.markFence g).ready = s.ready := rfl
@[simp] theorem State.markFence_nextIssue (s : State) (g : GroupId) :
    (s.markFence g).nextIssue = s.nextIssue := rfl
@[simp] theorem State.markFence_drainTags (s : State) (g : GroupId) :
    (s.markFence g).drainTags = s.drainTags := rfl
@[simp] theorem State.markFence_timebase (s : State) (g : GroupId) :
    (s.markFence g).timebase = s.timebase := rfl
@[simp] theorem State.markFence_hold (s : State) (g : GroupId) :
    (s.markFence g).hold = s.hold := rfl
@[simp] theorem State.markFence_watches (s : State) (g : GroupId) :
    (s.markFence g).watches = s.watches := rfl
@[simp] theorem State.markFence_log (s : State) (g : GroupId) :
    (s.markFence g).log = s.log := rfl
@[simp] theorem State.markFence_events (s : State) (g : GroupId) :
    (s.markFence g).events = s.events := rfl
@[simp] theorem State.markFence_port (s : State) (g : GroupId) :
    (s.markFence g).port = s.port := rfl
@[simp] theorem State.markFence_pending (s : State) (g : GroupId) :
    (s.markFence g).pending = s.pending := rfl
@[simp] theorem State.markFence_draws (s : State) (g : GroupId) :
    (s.markFence g).draws = s.draws := rfl

@[simp] theorem State.refuseWrite_inReset (s : State) (t : UTag) :
    (s.refuseWrite t).inReset = s.inReset := rfl
@[simp] theorem State.refuseWrite_hldLow (s : State) (t : UTag) :
    (s.refuseWrite t).hldLow = s.hldLow := rfl
@[simp] theorem State.refuseWrite_csLow (s : State) (t : UTag) :
    (s.refuseWrite t).csLow = s.csLow := rfl
@[simp] theorem State.refuseWrite_quiescing (s : State) (t : UTag) :
    (s.refuseWrite t).quiescing = s.quiescing := rfl
@[simp] theorem State.refuseWrite_regions (s : State) (t : UTag) :
    (s.refuseWrite t).regions = s.regions := rfl
@[simp] theorem State.refuseWrite_groups (s : State) (t : UTag) :
    (s.refuseWrite t).groups = s.groups := rfl
@[simp] theorem State.refuseWrite_pool (s : State) (t : UTag) :
    (s.refuseWrite t).pool = s.pool := rfl
@[simp] theorem State.refuseWrite_stallLimit (s : State) (t : UTag) :
    (s.refuseWrite t).stallLimit = s.stallLimit := rfl
@[simp] theorem State.refuseWrite_stall (s : State) (t : UTag) :
    (s.refuseWrite t).stall = s.stall := rfl
@[simp] theorem State.refuseWrite_inFlight (s : State) (t : UTag) :
    (s.refuseWrite t).inFlight = s.inFlight := rfl
@[simp] theorem State.refuseWrite_places (s : State) (t : UTag) :
    (s.refuseWrite t).places = s.places := rfl
@[simp] theorem State.refuseWrite_responses (s : State) (t : UTag) :
    (s.refuseWrite t).responses = s.responses ++ [{ tag := t, status := .errStage, data := none, holdsTag := true }] := rfl
@[simp] theorem State.refuseWrite_forwardQueue (s : State) (t : UTag) :
    (s.refuseWrite t).forwardQueue = s.forwardQueue := rfl
@[simp] theorem State.refuseWrite_outstanding (s : State) (t : UTag) :
    (s.refuseWrite t).outstanding = s.outstanding := rfl
@[simp] theorem State.refuseWrite_tracker (s : State) (t : UTag) :
    (s.refuseWrite t).tracker = s.tracker := rfl
@[simp] theorem State.refuseWrite_channel (s : State) (t : UTag) :
    (s.refuseWrite t).channel = s.channel := rfl
@[simp] theorem State.refuseWrite_lastGrant (s : State) (t : UTag) :
    (s.refuseWrite t).lastGrant = s.lastGrant := rfl
@[simp] theorem State.refuseWrite_ready (s : State) (t : UTag) :
    (s.refuseWrite t).ready = s.ready := rfl
@[simp] theorem State.refuseWrite_nextIssue (s : State) (t : UTag) :
    (s.refuseWrite t).nextIssue = s.nextIssue := rfl
@[simp] theorem State.refuseWrite_drainTags (s : State) (t : UTag) :
    (s.refuseWrite t).drainTags = s.drainTags := rfl
@[simp] theorem State.refuseWrite_timebase (s : State) (t : UTag) :
    (s.refuseWrite t).timebase = s.timebase := rfl
@[simp] theorem State.refuseWrite_hold (s : State) (t : UTag) :
    (s.refuseWrite t).hold = s.hold := rfl
@[simp] theorem State.refuseWrite_watches (s : State) (t : UTag) :
    (s.refuseWrite t).watches = s.watches := rfl
@[simp] theorem State.refuseWrite_log (s : State) (t : UTag) :
    (s.refuseWrite t).log = s.log := rfl
@[simp] theorem State.refuseWrite_port (s : State) (t : UTag) :
    (s.refuseWrite t).port = s.port := rfl
@[simp] theorem State.refuseWrite_pending (s : State) (t : UTag) :
    (s.refuseWrite t).pending = s.pending := rfl
@[simp] theorem State.refuseWrite_draws (s : State) (t : UTag) :
    (s.refuseWrite t).draws = s.draws := rfl

@[simp] theorem State.stray_inReset (s : State) :
    (s.stray).inReset = s.inReset := rfl
@[simp] theorem State.stray_hldLow (s : State) :
    (s.stray).hldLow = s.hldLow := rfl
@[simp] theorem State.stray_csLow (s : State) :
    (s.stray).csLow = s.csLow := rfl
@[simp] theorem State.stray_quiescing (s : State) :
    (s.stray).quiescing = s.quiescing := rfl
@[simp] theorem State.stray_regions (s : State) :
    (s.stray).regions = s.regions := rfl
@[simp] theorem State.stray_groups (s : State) :
    (s.stray).groups = s.groups := rfl
@[simp] theorem State.stray_pool (s : State) :
    (s.stray).pool = s.pool := rfl
@[simp] theorem State.stray_stallLimit (s : State) :
    (s.stray).stallLimit = s.stallLimit := rfl
@[simp] theorem State.stray_stall (s : State) :
    (s.stray).stall = s.stall := rfl
@[simp] theorem State.stray_inFlight (s : State) :
    (s.stray).inFlight = s.inFlight := rfl
@[simp] theorem State.stray_places (s : State) :
    (s.stray).places = s.places := rfl
@[simp] theorem State.stray_responses (s : State) :
    (s.stray).responses = s.responses := rfl
@[simp] theorem State.stray_forwardQueue (s : State) :
    (s.stray).forwardQueue = s.forwardQueue := rfl
@[simp] theorem State.stray_outstanding (s : State) :
    (s.stray).outstanding = s.outstanding := rfl
@[simp] theorem State.stray_tracker (s : State) :
    (s.stray).tracker = s.tracker := rfl
@[simp] theorem State.stray_channel (s : State) :
    (s.stray).channel = s.channel := rfl
@[simp] theorem State.stray_lastGrant (s : State) :
    (s.stray).lastGrant = s.lastGrant := rfl
@[simp] theorem State.stray_ready (s : State) :
    (s.stray).ready = s.ready := rfl
@[simp] theorem State.stray_nextIssue (s : State) :
    (s.stray).nextIssue = s.nextIssue := rfl
@[simp] theorem State.stray_drainTags (s : State) :
    (s.stray).drainTags = s.drainTags := rfl
@[simp] theorem State.stray_timebase (s : State) :
    (s.stray).timebase = s.timebase := rfl
@[simp] theorem State.stray_hold (s : State) :
    (s.stray).hold = s.hold := rfl
@[simp] theorem State.stray_watches (s : State) :
    (s.stray).watches = s.watches := rfl
@[simp] theorem State.stray_log (s : State) :
    (s.stray).log = s.log := rfl
@[simp] theorem State.stray_port (s : State) :
    (s.stray).port = s.port := rfl
@[simp] theorem State.stray_pending (s : State) :
    (s.stray).pending = s.pending := rfl
@[simp] theorem State.stray_draws (s : State) :
    (s.stray).draws = s.draws := rfl

end Sys2Proof.Machine
end

