-- ==== Sys2Proof/Laws/Frame.lean ====
section
/-! SUPPORT. What the shared operations leave alone. `Still s t` says that t differs from s in nothing but what seals,
drains, retries, holds and log entries may change; `Quiet s t` says that the hold unit and the free choices are as
they were too. Each shared operation has one lemma of this kind. -/

namespace Sys2Proof.Machine

/-- The lines, the channel to memory, the tags, the timebase, the watches, the port, the queue of commands and the
registers of the log and the stall slot are the same. -/
structure Still (s t : State) : Prop where
  inReset : t.inReset = s.inReset
  hldLow : t.hldLow = s.hldLow
  csLow : t.csLow = s.csLow
  quiescing : t.quiescing = s.quiescing
  stallLimit : t.stallLimit = s.stallLimit
  inFlight : t.inFlight = s.inFlight
  places : t.places = s.places
  channel : t.channel = s.channel
  lastGrant : t.lastGrant = s.lastGrant
  drainTags : t.drainTags = s.drainTags
  timebase : t.timebase = s.timebase
  watches : t.watches = s.watches
  port : t.port = s.port
  pending : t.pending = s.pending
  logKinds : t.log.kinds = s.log.kinds
  logWatermark : t.log.watermark = s.log.watermark
  enables : t.events.enables = s.events.enables

/-- Still, with the hold unit and the free choices as they were. -/
structure Quiet (s t : State) : Prop extends Still s t where
  hold : t.hold = s.hold
  draws : t.draws = s.draws

theorem Still.refl (s : State) : Still s s := by constructor <;> rfl

theorem Still.trans {s t u : State} (h : Still s t) (k : Still t u) : Still s u := by
  cases h; cases k; constructor <;> simp_all

theorem Quiet.refl (s : State) : Quiet s s := ⟨Still.refl s, rfl, rfl⟩

theorem Quiet.trans {s t u : State} (h : Quiet s t) (k : Quiet t u) : Quiet s u :=
  ⟨h.toStill.trans k.toStill, k.hold.trans h.hold, k.draws.trans h.draws⟩

theorem Still.foldl {α : Type} {f : State → α → State} (h : ∀ s x, Still s (f s x)) (l : List α) (s : State) :
    Still s (l.foldl f s) := by
  induction l generalizing s with
  | nil => exact Still.refl s
  | cons x l ih => exact (h s x).trans (ih (f s x))

theorem Quiet.foldl {α : Type} {f : State → α → State} (h : ∀ s x, Quiet s (f s x)) (l : List α) (s : State) :
    Quiet s (l.foldl f s) := by
  induction l generalizing s with
  | nil => exact Quiet.refl s
  | cons x l ih => exact (h s x).trans (ih (f s x))

/-! ### Named updates -/

theorem quiet_raise (s : State) (f : Flag) : Quiet s (s.raise f) := by constructor <;> first | rfl | constructor <;> rfl

theorem quiet_bump (s : State) (c : Counter) (n : Nat) : Quiet s (s.bump c n) := by
  constructor <;> first | rfl | constructor <;> rfl

theorem quiet_modGroup (s : State) (g : GroupId) (f : Group → Group) : Quiet s (s.modGroup g f) := by
  constructor <;> first | rfl | constructor <;> rfl

theorem quiet_modSlot (s : State) (g : GroupId) (f : SealedSlot → SealedSlot) : Quiet s (s.modSlot g f) :=
  quiet_modGroup s g _

theorem quiet_moveRegions (s : State) (g : GroupId) (a b : RegionState) : Quiet s (s.moveRegions g a b) := by
  constructor <;> first | rfl | constructor <;> rfl

theorem quiet_respond (s : State) (t : UTag) (st : RespStatus) (d : Option Lanes) : Quiet s (s.respond t st d) := by
  constructor <;> first | rfl | constructor <;> rfl

theorem quiet_retag (s : State) (g : GroupId) : Quiet s (s.retag g) := by
  constructor <;> first | rfl | constructor <;> rfl

theorem quiet_discardOpen (s : State) (g : GroupId) : Quiet s (s.discardOpen g) := by
  constructor <;> first | rfl | constructor <;> rfl

theorem quiet_forwardStalled (s : State) (w : StalledWrite) : Quiet s (s.forwardStalled w) := by
  constructor <;> first | rfl | constructor <;> rfl

theorem quiet_freeSealed (s : State) (b : DrainBinding) : Quiet s (s.freeSealed b) := by
  constructor <;> first | rfl | constructor <;> rfl

theorem quiet_markFence (s : State) (g : GroupId) : Quiet s (s.markFence g) := by
  constructor <;> first | rfl | constructor <;> rfl

theorem quiet_refuseWrite (s : State) (t : UTag) : Quiet s (s.refuseWrite t) := by
  constructor <;> first | rfl | constructor <;> rfl

theorem quiet_emptyStall (s : State) : Quiet s { s with stall := none } := by
  constructor <;> first | rfl | constructor <;> rfl

/-! ### The log -/

theorem quiet_logRecord (s : State) (i : Fin 4) (ts : Stamp) (b : LogBody) : Quiet s (s.logRecord i ts b) := by
  unfold State.logRecord
  split
  · exact Quiet.refl s
  · split
    · simp only; split <;> (constructor <;> first | rfl | constructor <;> rfl)
    · constructor <;> first | rfl | constructor <;> rfl

/-! ### The pool and the stall slot -/

theorem quiet_offer {s t : State} {g : GroupId} {a : Addr} {z : Size} {d : Lanes} (h : s.offer g a z d = some t) :
    Quiet s t := by
  unfold State.offer at h
  simp only at h
  split at h
  · cases h; constructor <;> first | rfl | constructor <;> rfl
  · split at h
    · cases h; constructor <;> first | rfl | constructor <;> rfl
    · cases h

theorem quiet_refuseStalled (s : State) : Quiet s s.refuseStalled := by
  unfold State.refuseStalled
  split
  · exact Quiet.refl s
  · exact (quiet_emptyStall s).trans (quiet_refuseWrite _ _)

theorem quiet_judge (s : State) : Quiet s s.judge.1 := by
  unfold State.judge
  split
  · exact Quiet.refl s
  · simp only
    split
    · exact quiet_forwardStalled s _
    · constructor <;> first | rfl | constructor <;> rfl
    all_goals
      split
      · rename_i h
        exact (quiet_offer h).trans ((quiet_emptyStall _).trans (quiet_respond _ _ _ _))
      · exact Quiet.refl s

/-! ### Fences and the ready queue -/

theorem quiet_startDrain (s : State) : Quiet s s.startDrain := by
  unfold State.startDrain
  split
  · exact Quiet.refl s
  · split
    · constructor <;> first | rfl | constructor <;> rfl
    · exact Quiet.refl s

theorem quiet_becomeReady (s : State) (g : GroupId) : Quiet s (s.becomeReady g) := by
  refine Quiet.trans ?_ (quiet_startDrain _)
  constructor <;> first | rfl | constructor <;> rfl

theorem quiet_lowerFence (s : State) (g : GroupId) : Quiet s (s.lowerFence g) := by
  unfold State.lowerFence
  split
  · exact Quiet.refl s
  · simp only
    split
    · exact (quiet_modSlot s g _).trans (quiet_becomeReady _ g)
    · exact quiet_modSlot s g _

theorem quiet_lowerMark (s : State) (m : Option GroupId) : Quiet s (s.lowerMark m) := by
  cases m with
  | none => exact Quiet.refl s
  | some g => exact quiet_lowerFence s g

/-! ### Seal and completion -/

theorem quiet_takeSeal (s : State) (g : GroupId) (c : SealCause) : Quiet s (s.takeSeal g c) :=
  ((quiet_modGroup s g _).trans (quiet_retag _ g)).trans (quiet_moveRegions _ g _ _)

theorem quiet_takeFence (s : State) (g : GroupId) (n : Nat) : Quiet s (s.takeFence g n) := by
  unfold State.takeFence
  simp only
  split
  · exact (quiet_markFence s g).trans (quiet_modSlot _ g _)
  · exact quiet_modSlot s g _

theorem quiet_reportSeal (s : State) (g : GroupId) (ts : Stamp) (b : LogBody) : Quiet s (s.reportSeal g ts b) :=
  (quiet_bump s _ _).trans (quiet_logRecord _ _ _ _)

theorem quiet_sealGroup (s : State) (g : GroupId) (c : SealCause) (ts : Stamp) : Quiet s (s.sealGroup g c ts) := by
  have h := ((quiet_takeSeal s g c).trans (quiet_takeFence _ g (s.openCount g))).trans (quiet_reportSeal _ g ts
    (.sealed s.groups[g].openGen (s.openCount g) c ((s.takeSeal g c).fenceCount g (s.openCount g))))
  unfold State.sealGroup
  simp only
  split
  · exact h.trans (quiet_becomeReady _ g)
  · exact h

theorem quiet_reportDone (s : State) (g : GroupId) (sl : SealedSlot) (a : Bool) : Quiet s (s.reportDone g sl a) :=
  (quiet_logRecord s _ _ _).trans (quiet_raise _ (.done g))

theorem quiet_freeSlot (s : State) (g : GroupId) : Quiet s (s.freeSlot g) := by
  constructor <;> first | rfl | constructor <;> rfl

theorem quiet_finish (s : State) (g : GroupId) : Quiet s (s.finish g) := by
  unfold State.finish
  split
  · exact Quiet.refl s
  · exact ((quiet_reportDone s g _ _).trans (quiet_freeSlot _ g)).trans (quiet_moveRegions _ g _ _)

theorem quiet_pressureRequest (s : State) (g : GroupId) : Quiet s (s.pressureRequest g) := by
  unfold State.pressureRequest
  split
  · exact (quiet_sealGroup s g _ _).trans (quiet_judge _)
  · exact Quiet.refl s

theorem quiet_retry (s : State) : Quiet s s.retry := by
  have h := quiet_judge s
  unfold State.retry
  generalize s.judge = p at h ⊢
  obtain ⟨t, _ | g⟩ := p
  · exact h
  · exact h.trans (quiet_pressureRequest t g)

theorem quiet_completeEmpty (s : State) (g : GroupId) {p : State → State} (h : ∀ u, Quiet u (p u)) :
    Quiet s (s.completeEmpty g p) :=
  ((quiet_finish s g).trans (h _)).trans (quiet_startDrain _)

theorem quiet_sealLast (s : State) (g : GroupId) (c : SealCause) (ts : Stamp) : Quiet s (s.sealLast g c ts) := by
  unfold State.sealLast
  simp only
  refine Quiet.trans ?_ (quiet_retry _)
  split
  · exact (quiet_sealGroup s g c ts).trans (quiet_completeEmpty _ g Quiet.refl)
  · exact quiet_sealGroup s g c ts

theorem quiet_offerPendingLast (s : State) (g : GroupId) : Quiet s (s.offerPendingLast g) := by
  unfold State.offerPendingLast
  split
  · exact quiet_sealLast s g _ _
  · exact Quiet.refl s

theorem quiet_sealFull (s : State) (g : GroupId) (c : SealCause) (ts : Stamp) : Quiet s (s.sealFull g c ts) := by
  unfold State.sealFull
  simp only
  refine Quiet.trans ?_ (quiet_retry _)
  split
  · exact (quiet_sealGroup s g c ts).trans (quiet_completeEmpty _ g fun u => quiet_offerPendingLast u g)
  · exact quiet_sealGroup s g c ts

theorem quiet_offerPending (s : State) (g : GroupId) : Quiet s (s.offerPending g) := by
  unfold State.offerPending
  split
  · exact quiet_sealFull s g _ _
  · exact Quiet.refl s

theorem quiet_complete (s : State) (g : GroupId) : Quiet s (s.complete g) := by
  refine Quiet.trans ?_ ((quiet_offerPending _ g).trans (quiet_startDrain _))
  split
  · exact (quiet_finish s g).trans (quiet_retry _)
  · exact quiet_finish s g

theorem quiet_triggerRequest (s : State) (g : GroupId) (ts : Stamp) : Quiet s (s.triggerRequest g ts) := by
  unfold State.triggerRequest
  split
  · exact quiet_sealFull s g _ _
  · exact ((quiet_bump s _ _).trans (quiet_raise _ _)).trans (quiet_logRecord _ _ _ _)

theorem quiet_retireRequest (s : State) (g : GroupId) : Quiet s (s.retireRequest g) := by
  unfold State.retireRequest
  split
  · exact Quiet.refl s
  · split
    · exact quiet_sealFull s g _ _
    · exact quiet_modGroup s g _

/-! ### Events, expiry, entry to HELD -/

theorem still_deliver (s : State) (g : GroupId) (ts : Stamp) : Still s (s.deliver g ts) := by
  unfold State.deliver
  split
  · simp only
    split
    · refine Still.trans (quiet_bump s (.suppressed g) 1).toStill ?_
      constructor <;> rfl
    · exact (quiet_bump s _ 1).toStill
  · split
    · exact ((quiet_modGroup s g _).trans (quiet_triggerRequest _ g ts)).toStill
    · exact (quiet_modGroup s g _).toStill

theorem quiet_expireStall (s : State) : Quiet s s.expireStall := by
  unfold State.expireStall
  split
  · exact Quiet.refl s
  · exact (((quiet_emptyStall s).trans (quiet_respond _ _ _ _)).trans (quiet_bump _ _ _)).trans (quiet_raise _ _)

theorem quiet_refuseStalledOfDiscard (s : State) : Quiet s s.refuseStalledOfDiscard := by
  unfold State.refuseStalledOfDiscard
  split
  · exact Quiet.refl s
  · split
    · exact quiet_refuseStalled s
    · exact Quiet.refl s

/-- An entry to HELD leaves the hold unit HELD, with its cause and its filter register, the counts 0 (R126). -/
theorem enterHeld_hold (s : State) (c : HoldCause) :
    (s.enterHeld c).hold = { state := .held, counter := 0, cause := c, suppressed := 0, filter := s.hold.filter } := by
  unfold State.enterHeld
  simp only
  rw [(quiet_logRecord _ _ _ _).hold, (quiet_retry _).hold, (Quiet.foldl quiet_discardOpen _ _).hold,
    (quiet_refuseStalledOfDiscard _).hold]
  rfl

theorem still_enterHeld (s : State) (c : HoldCause) : Still s (s.enterHeld c) := by
  unfold State.enterHeld
  simp only
  refine Still.trans ?_ (quiet_logRecord _ _ _ _).toStill
  refine Still.trans ?_ (quiet_retry _).toStill
  refine Still.trans ?_ (Quiet.foldl quiet_discardOpen _ _).toStill
  refine Still.trans ?_ (quiet_refuseStalledOfDiscard _).toStill
  constructor <;> rfl

theorem still_applyDue (s : State) (d : Due) : Still s (s.applyDue d) := by
  cases d with
  | deliver g e ts => exact still_deliver s g ts
  | stallExpiry => exact (quiet_expireStall s).toStill
  | filterComplete =>
    simp only [State.applyDue]
    split
    · exact still_enterHeld s _
    · exact Still.refl s

theorem still_drew (s : State) (n : Nat) : Still s (s.drew n) := by constructor <;> rfl

/-- What falls inside a tick or an edge, in whatever order. -/
theorem still_applyAll (s : State) (first : Due → Bool) (l : List Due) : Still s (s.applyAll first l) := by
  unfold State.applyAll
  simp only
  exact (((still_drew s _).trans (Still.foldl still_applyDue _ _)).trans (still_drew _ _)).trans
    (Still.foldl still_applyDue _ _)

end Sys2Proof.Machine
end

