-- ==== Sys2Proof/Laws/Layout.lean ====
section
/-! SUPPORT. Lanes, byte order and the receiver: the small lemmas of Operands.lean and Frames.lean. -/

namespace Sys2Proof.Machine

/-! ### Lanes -/

@[simp] theorem hasLane_zero (k : Fin 8) : hasLane 0#8 k = false := by simp [hasLane]

@[simp] theorem hasLane_or (m n : LaneMask) (k : Fin 8) : hasLane (m ||| n) k = (hasLane m k || hasLane n k) := by
  simp [hasLane]

@[simp] theorem hasLane_and (m n : LaneMask) (k : Fin 8) : hasLane (m &&& n) k = (hasLane m k && hasLane n k) := by
  simp [hasLane]

theorem maskLanes_get (m : LaneMask) (d : Lanes) (k : Fin 8) :
    (maskLanes m d)[k] = if hasLane m k then d[k] else 0 := by simp [maskLanes]

theorem mergeLanes_get (m : LaneMask) (new old : Lanes) (k : Fin 8) :
    (mergeLanes m new old)[k] = if hasLane m k then new[k] else old[k] := by simp [mergeLanes]

/-! ### Byte order -/

theorem append_toNat {n m : Nat} (b : BitVec n) (a : BitVec m) : (b ++ a).toNat = b.toNat * 2 ^ m + a.toNat := by
  rw [BitVec.toNat_append, Nat.shiftLeft_eq, Nat.mul_comm, Nat.two_pow_add_eq_or_of_lt a.isLt]

/-- The two bytes of a 16-bit quantity spell it. -/
theorem word16_extract (v : BitVec 16) : word16 (v.extractLsb' 0 8) (v.extractLsb' 8 8) = v := by
  apply BitVec.eq_of_toNat_eq
  have := v.isLt
  simp only [word16, append_toNat, BitVec.extractLsb'_toNat, Nat.shiftRight_eq_div_pow]
  omega

/-- The four bytes of a 32-bit quantity spell it. -/
theorem word32_extract (v : BitVec 32) :
    word32 (v.extractLsb' 0 8) (v.extractLsb' 8 8) (v.extractLsb' 16 8) (v.extractLsb' 24 8) = v := by
  apply BitVec.eq_of_toNat_eq
  have := v.isLt
  simp only [word32, append_toNat, BitVec.extractLsb'_toNat, Nat.shiftRight_eq_div_pow]
  omega

/-! ### The receiver -/

/-- In a fresh frame a row of the table that names a frame takes it. -/
theorem frameRow_fresh {s : State} (h : s.fresh = true) (f : Frame) : s.frameRow f = s.takeFrame f := if_pos h

theorem fresh_iff (s : State) :
    s.fresh = true ↔ s.inReset = false ∧ s.port.rx = .request ∧ s.port.got = [] := by
  simp [State.fresh, and_assoc]

/-- With no write stalled a retry does nothing. -/
theorem retry_none {s : State} (h : s.stall = none) : s.retry = s := by
  unfold State.retry State.judge
  rw [h]

end Sys2Proof.Machine
end

