-- ==== Sys2Proof/Laws/Moves.lean ====
section
/-! SUPPORT. The shared operations, taken apart once and for all. A `Move` is one small change that a seal, a
completion, a retry, a delivered event, an expiry or an entry to HELD is made of; every shared operation is a chain
of moves. What every move keeps, every shared operation keeps (`Moves.keeps`). -/

namespace Sys2Proof.Machine

/-- One small change. -/
inductive Move : State → State → Prop where
  | log (s : State) (i : Fin 4) (ts : Stamp) (b : LogBody) : Move s (s.logRecord i ts b)
  | raise (s : State) (f : Flag) : Move s (s.raise f)
  | bump (s : State) (c : Counter) (n : Nat) : Move s (s.bump c n)
  | respond (s : State) (t : UTag) (st : RespStatus) (d : Option Lanes) : Move s (s.respond t st d)
  | emptyStall (s : State) : Move s { s with stall := none }
  | restall (s : State) (w : StalledWrite) (h : s.stall = some w) :
      Move s { s with stall := some { w with cause := .retireDrain } }
  | forwardStalled (s : State) (w : StalledWrite) (h : s.stall = some w) : Move s (s.forwardStalled w)
  | offer (s t : State) (g : GroupId) (a : Addr) (z : Size) (d : Lanes) (h : s.offer g a z d = some t) : Move s t
  | discardOpen (s : State) (g : GroupId) : Move s (s.discardOpen g)
  | freeSealed (s : State) (b : DrainBinding) : Move s (s.freeSealed b)
  | takeSeal (s : State) (g : GroupId) (c : SealCause) : Move s (s.takeSeal g c)
  | markFence (s : State) (g : GroupId) : Move s (s.markFence g)
  | modSlot (s : State) (g : GroupId) (f : SealedSlot → SealedSlot) : Move s (s.modSlot g f)
  | freeSlot (s : State) (g : GroupId) : Move s (s.freeSlot g)
  | joinReady (s : State) (g : GroupId) : Move s { s with ready := s.ready ++ [g] }
  | nextIssue (s : State) (n : Nat) : Move s { s with nextIssue := n }
  | regionsOff (s : State) (g : GroupId) : Move s (s.moveRegions g .retireDrain .off)
  | pendRetire (s : State) (g : GroupId) : Move s (s.modGroup g fun r => { r with pendingRetire := true })
  | count (s : State) (g : GroupId) (n : Nat)
      (h : s.groups[g].dividerCount < s.groups[g].divider → n < s.groups[g].divider) :
      Move s (s.modGroup g fun r => { r with dividerCount := n })
  | suppress (s : State) (n : Nat) : Move s { s with hold := { s.hold with suppressed := n } }
  | hold (s : State) (c : HoldCause) :
      Move s { s with hold := { s.hold with state := .held, cause := c, counter := 0, suppressed := 0 } }
  | drew (s : State) (n : Nat) : Move s (s.drew n)

/-- A chain of moves. -/
inductive Moves : State → State → Prop where
  | refl (s : State) : Moves s s
  | tail {s t u : State} (h : Moves s t) (k : Move t u) : Moves s u

theorem Moves.one {s t : State} (h : Move s t) : Moves s t := .tail (.refl s) h

theorem Moves.trans {s t u : State} (h : Moves s t) (k : Moves t u) : Moves s u := by
  induction k with
  | refl => exact h
  | tail _ k ih => exact .tail ih k

/-- What every move keeps, a chain of moves keeps. -/
theorem Moves.keeps {P : State → Prop} (hP : ∀ s t, Move s t → P s → P t) {s t : State} (h : Moves s t) (hs : P s) :
    P t := by
  induction h with
  | refl => exact hs
  | tail _ k ih => exact hP _ _ k ih

theorem Moves.foldl {α : Type} {f : State → α → State} (h : ∀ s x, Moves s (f s x)) (l : List α) (s : State) :
    Moves s (l.foldl f s) := by
  induction l generalizing s with
  | nil => exact .refl s
  | cons x l ih => exact (h s x).trans (ih (f s x))

/-! ### Each shared operation as a chain of moves -/

theorem moves_refuseWrite (s : State) (t : UTag) : Moves s (s.refuseWrite t) :=
  ((Moves.one (.respond s t .errStage none)).tail (.bump _ .refusedWrites 1)).tail (.raise _ .refused)

theorem moves_refuseStalled (s : State) : Moves s s.refuseStalled := by
  unfold State.refuseStalled
  split
  · exact .refl s
  · exact (Moves.one (.emptyStall s)).trans (moves_refuseWrite _ _)

theorem moves_judge (s : State) : Moves s s.judge.1 := by
  unfold State.judge
  split
  · exact .refl s
  · rename_i w hw
    simp only
    split
    · exact .one (.forwardStalled s w hw)
    · exact .one (.restall s w hw)
    all_goals
      split
      · rename_i h
        exact ((Moves.one (.offer _ _ _ _ _ _ h)).tail (.emptyStall _)).tail (.respond _ _ _ _)
      · exact .refl s

theorem moves_startDrain (s : State) : Moves s s.startDrain := by
  unfold State.startDrain
  split
  · exact .refl s
  · split
    · exact (Moves.one (.modSlot s _ _)).tail (.nextIssue _ 0)
    · exact .refl s

theorem moves_becomeReady (s : State) (g : GroupId) : Moves s (s.becomeReady g) :=
  ((Moves.one (.modSlot s g _)).tail (.joinReady _ g)).trans (moves_startDrain _)

theorem moves_lowerFence (s : State) (g : GroupId) : Moves s (s.lowerFence g) := by
  unfold State.lowerFence
  split
  · exact .refl s
  · simp only
    split
    · exact (Moves.one (.modSlot s g _)).trans (moves_becomeReady _ g)
    · exact .one (.modSlot s g _)

theorem moves_lowerMark (s : State) (m : Option GroupId) : Moves s (s.lowerMark m) := by
  cases m with
  | none => exact .refl s
  | some g => exact moves_lowerFence s g

theorem moves_takeFence (s : State) (g : GroupId) (n : Nat) : Moves s (s.takeFence g n) := by
  unfold State.takeFence
  simp only
  split
  · exact (Moves.one (.markFence s g)).tail (.modSlot _ g _)
  · exact .one (.modSlot s g _)

theorem moves_sealGroup (s : State) (g : GroupId) (c : SealCause) (ts : Stamp) : Moves s (s.sealGroup g c ts) := by
  have h := (((Moves.one (.takeSeal s g c)).trans (moves_takeFence _ g (s.openCount g))).tail
    (.bump _ (.seals g) 1)).tail (.log _ g ts
      (.sealed s.groups[g].openGen (s.openCount g) c ((s.takeSeal g c).fenceCount g (s.openCount g))))
  unfold State.sealGroup
  simp only
  split
  · exact h.trans (moves_becomeReady _ g)
  · exact h

theorem moves_reportDone (s : State) (g : GroupId) (sl : SealedSlot) (a : Bool) : Moves s (s.reportDone g sl a) :=
  (Moves.one (.log s g _ _)).tail (.raise _ (.done g))

theorem moves_finish (s : State) (g : GroupId) : Moves s (s.finish g) := by
  unfold State.finish
  split
  · exact .refl s
  · exact ((moves_reportDone s g _ _).tail (.freeSlot _ g)).tail (.regionsOff _ g)

theorem moves_pressureRequest (s : State) (g : GroupId) : Moves s (s.pressureRequest g) := by
  unfold State.pressureRequest
  split
  · exact (moves_sealGroup s g _ _).trans (moves_judge _)
  · exact .refl s

theorem moves_retry (s : State) : Moves s s.retry := by
  have h := moves_judge s
  unfold State.retry
  generalize s.judge = p at h ⊢
  obtain ⟨t, _ | g⟩ := p
  · exact h
  · exact h.trans (moves_pressureRequest t g)

theorem moves_completeEmpty (s : State) (g : GroupId) {p : State → State} (h : ∀ u, Moves u (p u)) :
    Moves s (s.completeEmpty g p) :=
  ((moves_finish s g).trans (h _)).trans (moves_startDrain _)

theorem moves_sealLast (s : State) (g : GroupId) (c : SealCause) (ts : Stamp) : Moves s (s.sealLast g c ts) := by
  unfold State.sealLast
  simp only
  refine Moves.trans ?_ (moves_retry _)
  split
  · exact (moves_sealGroup s g c ts).trans (moves_completeEmpty _ g Moves.refl)
  · exact moves_sealGroup s g c ts

theorem moves_offerPendingLast (s : State) (g : GroupId) : Moves s (s.offerPendingLast g) := by
  unfold State.offerPendingLast
  split
  · exact moves_sealLast s g _ _
  · exact .refl s

theorem moves_sealFull (s : State) (g : GroupId) (c : SealCause) (ts : Stamp) : Moves s (s.sealFull g c ts) := by
  unfold State.sealFull
  simp only
  refine Moves.trans ?_ (moves_retry _)
  split
  · exact (moves_sealGroup s g c ts).trans (moves_completeEmpty _ g fun u => moves_offerPendingLast u g)
  · exact moves_sealGroup s g c ts

theorem moves_offerPending (s : State) (g : GroupId) : Moves s (s.offerPending g) := by
  unfold State.offerPending
  split
  · exact moves_sealFull s g _ _
  · exact .refl s

theorem moves_complete (s : State) (g : GroupId) : Moves s (s.complete g) := by
  refine Moves.trans ?_ ((moves_offerPending _ g).trans (moves_startDrain _))
  split
  · exact (moves_finish s g).trans (moves_retry _)
  · exact moves_finish s g

theorem moves_triggerRequest (s : State) (g : GroupId) (ts : Stamp) : Moves s (s.triggerRequest g ts) := by
  unfold State.triggerRequest
  split
  · exact moves_sealFull s g _ _
  · exact ((Moves.one (.bump s _ 1)).tail (.raise _ _)).tail (.log _ _ _ _)

theorem moves_retireRequest (s : State) (g : GroupId) : Moves s (s.retireRequest g) := by
  unfold State.retireRequest
  split
  · exact .refl s
  · split
    · exact moves_sealFull s g _ _
    · exact .one (.pendRetire s g)

theorem moves_deliver (s : State) (g : GroupId) (ts : Stamp) : Moves s (s.deliver g ts) := by
  unfold State.deliver
  split
  · simp only
    split
    · exact (Moves.one (.bump s (.suppressed g) 1)).tail (.suppress _ _)
    · exact .one (.bump s _ 1)
  · split
    · rename_i h
      exact (Moves.one (.count s g 0 (fun h => Nat.lt_of_le_of_lt (Nat.zero_le _) h))).trans
        (moves_triggerRequest _ g ts)
    · rename_i h
      have h1 : s.modGroup g (fun r => { r with dividerCount := r.dividerCount + 1 }) =
          s.modGroup g (fun r => { r with dividerCount := s.groups[g].dividerCount + 1 }) := rfl
      rw [h1]
      exact .one (.count s g _ (fun k => by omega))

theorem moves_expireStall (s : State) : Moves s s.expireStall := by
  unfold State.expireStall
  split
  · exact .refl s
  · exact (((Moves.one (.emptyStall s)).tail (.respond _ _ _ _)).tail (.bump _ _ _)).tail (.raise _ _)

theorem moves_refuseStalledOfDiscard (s : State) : Moves s s.refuseStalledOfDiscard := by
  unfold State.refuseStalledOfDiscard
  split
  · exact .refl s
  · split
    · exact moves_refuseStalled s
    · exact .refl s

theorem moves_enterHeld (s : State) (c : HoldCause) : Moves s (s.enterHeld c) := by
  unfold State.enterHeld
  simp only
  refine Moves.tail ?_ (.log _ _ _ _)
  refine Moves.trans ?_ (moves_retry _)
  refine Moves.trans ?_ (Moves.foldl (fun s g => .one (.discardOpen s g)) _ _)
  refine Moves.trans ?_ (moves_refuseStalledOfDiscard _)
  exact (Moves.one (.hold s c)).tail (.raise _ _)

theorem moves_applyDue (s : State) (d : Due) : Moves s (s.applyDue d) := by
  cases d with
  | deliver g e ts => exact moves_deliver s g ts
  | stallExpiry => exact moves_expireStall s
  | filterComplete =>
    simp only [State.applyDue]
    split
    · exact moves_enterHeld s _
    · exact .refl s

/-- All that falls inside a tick or an edge is a chain of moves, whatever the order it is taken in. -/
theorem moves_applyAll (s : State) (first : Due → Bool) (l : List Due) : Moves s (s.applyAll first l) := by
  unfold State.applyAll
  simp only
  exact (((Moves.one (.drew s _)).trans (Moves.foldl moves_applyDue _ _)).tail (.drew _ _)).trans
    (Moves.foldl moves_applyDue _ _)

end Sys2Proof.Machine
end

