-- ==== Sys2Proof/Laws/Pool.lean ====
section
/-! SUPPORT. The staging pool: when a staged write merges, allocates or fails (R24 to R27), and what seals, discards
and answered drain writes leave of the entries and the counts. -/

namespace Sys2Proof.Machine

/-- The entry is one of the group with the role. -/
@[simp] theorem Entry.isOf_iff (e : Entry) (g : GroupId) (r : Role) : e.isOf g r = true ↔ e.group = g ∧ e.role = r := by
  simp [Entry.isOf]

/-- A write merges where the group has an OPEN entry for the doubleword (R24, R25). -/
theorem offer_merges {s : State} {g : GroupId} {a : Addr} {e : Entry} (z : Size) (d : Lanes)
    (h : s.findEntry g .opened (doubleword a) = some e) :
    s.offer g a z d = some { s with
      pool := s.pool.map fun e =>
        if e.group = g ∧ e.role = .opened ∧ e.addr = doubleword a then e.merge (laneMask a z) d else e } := by
  simp only [State.offer, h, Option.isSome_some, if_true, Option.some.injEq]
  congr 1
  apply List.map_congr_left
  intro e _
  simp [and_assoc]

/-- A write allocates where no OPEN entry matches, an entry is free and the group is below its quota (R26). -/
theorem offer_allocates {s : State} {g : GroupId} {a : Addr} (z : Size) (d : Lanes)
    (h : s.findEntry g .opened (doubleword a) = none) (hp : s.pool.length < 64)
    (hq : s.openCount g < s.groups[g].quota) :
    s.offer g a z d = some { s with
      pool := s.pool ++
        [{ addr := doubleword a, data := maskLanes (laneMask a z) d, mask := laneMask a z, group := g, role := .opened,
           arrival := s.openCount g, issued := false }] } := by
  have hp' : s.poolUsed < 64 := hp
  simp only [State.offer, h, Option.isSome_none, Bool.false_eq_true, if_false, hp', hq, and_self, if_true]

/-- Otherwise the allocation fails (R27). -/
theorem offer_fails {s : State} {g : GroupId} {a : Addr} (z : Size) (d : Lanes)
    (h : s.findEntry g .opened (doubleword a) = none) (hf : 64 ≤ s.pool.length ∨ s.groups[g].quota ≤ s.openCount g) :
    s.offer g a z d = none := by
  have hn : ¬(s.poolUsed < 64 ∧ s.openCount g < s.groups[g].quota) := by
    have : s.poolUsed = s.pool.length := rfl
    omega
  simp only [State.offer, h, Option.isSome_none, Bool.false_eq_true, if_false, hn]

/-- An offer is one of the three. -/
theorem offer_cases {s t : State} {g : GroupId} {a : Addr} {z : Size} {d : Lanes} (h : s.offer g a z d = some t) :
    (∃ e, s.findEntry g .opened (doubleword a) = some e ∧ t = { s with
        pool := s.pool.map fun e =>
          if e.group = g ∧ e.role = .opened ∧ e.addr = doubleword a then e.merge (laneMask a z) d else e }) ∨
    (s.findEntry g .opened (doubleword a) = none ∧ s.pool.length < 64 ∧ s.openCount g < s.groups[g].quota ∧
      t = { s with
        pool := s.pool ++
          [{ addr := doubleword a, data := maskLanes (laneMask a z) d, mask := laneMask a z, group := g,
             role := .opened, arrival := s.openCount g, issued := false }] }) := by
  cases hf : s.findEntry g .opened (doubleword a) with
  | some e =>
    rw [offer_merges z d hf] at h
    cases h
    exact .inl ⟨e, rfl, rfl⟩
  | none =>
    by_cases hc : s.pool.length < 64 ∧ s.openCount g < s.groups[g].quota
    · rw [offer_allocates z d hf hc.1 hc.2] at h
      cases h
      exact .inr ⟨rfl, hc.1, hc.2, rfl⟩
    · rw [offer_fails z d hf (by omega)] at h
      cases h

/-- A seal re-tags the group's OPEN entries and no other (R36). -/
theorem retag_pool (s : State) (g : GroupId) :
    (s.retag g).pool = s.pool.map fun e =>
      if e.group = g ∧ e.role = .opened then { e with role := .sealed, issued := false } else e := by
  simp [State.retag]

theorem takeSeal_pool (s : State) (g : GroupId) (c : SealCause) :
    (s.takeSeal g c).pool = s.pool.map fun e =>
      if e.group = g ∧ e.role = .opened then { e with role := .sealed, issued := false } else e :=
  retag_pool _ g

/-- After a re-tag the group has no OPEN entry, and every other group has the ones it had (R36). -/
theorem openCount_retag (s : State) (g h : GroupId) :
    (s.retag g).openCount h = if h = g then 0 else s.openCount h := by
  unfold State.openCount
  rw [retag_pool, List.countP_map]
  split
  · rename_i hg
    rw [List.countP_eq_zero]
    intro e _
    by_cases he : e.group = g ∧ e.role = .opened
    · simp [he]
    · simp [he, hg]
  · rename_i hne
    apply List.countP_congr
    intro e _
    by_cases he : e.group = g ∧ e.role = .opened
    · simp [Entry.isOf, he, Ne.symm hne]
    · simp [he]

/-- Freeing a group's OPEN entries leaves it none, and every other group the ones it had (R38). -/
theorem openCount_discardOpen (s : State) (g h : GroupId) :
    (s.discardOpen g).openCount h = if h = g then 0 else s.openCount h := by
  unfold State.openCount
  rw [State.discardOpen_pool, List.countP_filter]
  split
  · rename_i hg
    rw [List.countP_eq_zero]
    simp [hg]
  · rename_i hne
    apply List.countP_congr
    intro e _
    simp only [Bool.and_eq_true, Entry.isOf_iff, Bool.not_eq_true']
    constructor
    · exact fun k => k.1
    · intro k
      refine ⟨k, ?_⟩
      cases hb : e.isOf g .opened
      · rfl
      · exact absurd ((Entry.isOf_iff e g .opened).1 hb).1 (fun j => hne (k.1.symm.trans j))

/-- A log entry keeps the pool. -/
@[simp] theorem logRecord_pool (s : State) (i : Fin 4) (ts : Stamp) (b : LogBody) :
    (s.logRecord i ts b).pool = s.pool := by
  unfold State.logRecord
  split
  · rfl
  · split
    · simp only; split <;> rfl
    · rfl

/-- A log entry changes the log and the event unit alone. -/
theorem logRecord_eq (s : State) (i : Fin 4) (ts : Stamp) (b : LogBody) :
    s.logRecord i ts b = { s with log := (s.logRecord i ts b).log, events := (s.logRecord i ts b).events } := by
  unfold State.logRecord
  split
  · rfl
  · split
    · simp only; split <;> rfl
    · rfl

end Sys2Proof.Machine
end

