-- ==== Sys2Proof/Laws/Seal.lean ====
section
/-! SUPPORT. The seal: what it leaves of the pool, the groups, the regions, the responses and the counters (R81). -/

namespace Sys2Proof.Machine

/-! ### Flags and counters -/

@[simp] theorem counter_bump_self (s : State) (c : Counter) (n : Nat) :
    (s.bump c n).counter c = satAdd (s.counter c) n := by
  simp [State.counter, State.bump]

theorem counter_bump_ne (s : State) {c k : Counter} (n : Nat) (h : c.index ≠ k.index) :
    (s.bump c n).counter k = s.counter k := by
  have h' : (c.index : Nat) ≠ k.index := fun e => h (Fin.ext e)
  simp [State.counter, State.bump, Vector.getElem_set_ne, h']

@[simp] theorem counter_raise (s : State) (f : Flag) (c : Counter) : (s.raise f).counter c = s.counter c := rfl

@[simp] theorem flagSet_bump (s : State) (c : Counter) (n : Nat) (f : Flag) : (s.bump c n).flagSet f = s.flagSet f := rfl

theorem Flag.pos_lt (f : Flag) : f.pos < 16 := by
  cases f <;> simp [Flag.pos] <;> omega

@[simp] theorem flagSet_raise_self (s : State) (f : Flag) : (s.raise f).flagSet f = true := by
  simp [State.flagSet, State.raise, f.pos_lt]

theorem flagSet_raise_ne (s : State) {f k : Flag} (h : f.pos ≠ k.pos) : (s.raise f).flagSet k = s.flagSet k := by
  simp [State.flagSet, State.raise, BitVec.getLsbD_twoPow, h]

/-- A log entry moves no counter but LOG_LOST_TOTAL. -/
theorem counter_logRecord (s : State) (i : Fin 4) (ts : Stamp) (b : LogBody) {c : Counter}
    (h : c.index ≠ Counter.logLostTotal.index) : (s.logRecord i ts b).counter c = s.counter c := by
  unfold State.logRecord
  split
  · rfl
  · split
    · simp only; split <;> rfl
    · rw [counter_raise, counter_bump_ne _ _ (fun e => h e.symm)]
      rfl

/-! ### The groups -/

/-- The same group record, with a sealed slot that differs in phase and fence count at most. -/
def Group.Alike (r q : Group) : Prop :=
  ∃ f : SealedSlot → SealedSlot, q = { r with slot := r.slot.map f } ∧
    ∀ sl, (f sl).gen = sl.gen ∧ (f sl).entries = sl.entries ∧ (f sl).written = sl.written ∧
      (f sl).failed = sl.failed ∧ (f sl).elapsed = sl.elapsed

theorem Group.Alike.refl (r : Group) : r.Alike r :=
  ⟨id, by simp, fun _ => ⟨rfl, rfl, rfl, rfl, rfl⟩⟩

theorem Group.Alike.trans {r q p : Group} (h : r.Alike q) (k : q.Alike p) : r.Alike p := by
  obtain ⟨f, rfl, hf⟩ := h
  obtain ⟨f', rfl, hf'⟩ := k
  refine ⟨fun sl => f' (f sl), by simp [Function.comp_def], fun sl => ?_⟩
  simp [hf, hf']

theorem modSlot_alike (s : State) (g h : GroupId) (f : SealedSlot → SealedSlot)
    (hf : ∀ sl, (f sl).gen = sl.gen ∧ (f sl).entries = sl.entries ∧ (f sl).written = sl.written ∧
      (f sl).failed = sl.failed ∧ (f sl).elapsed = sl.elapsed) :
    s.groups[h].Alike (s.modSlot g f).groups[h] := by
  by_cases e : g = h
  · subst e
    exact ⟨f, by simp [State.modSlot, State.modGroup], hf⟩
  · have e' : (g : Nat) ≠ h := fun k => e (Fin.ext k)
    have : (s.modSlot g f).groups[h] = s.groups[h] := by
      simp [State.modSlot, State.modGroup, Vector.getElem_set_ne, e']
    rw [this]
    exact .refl _

theorem startDrain_alike (s : State) (h : GroupId) : s.groups[h].Alike s.startDrain.groups[h] := by
  unfold State.startDrain
  split
  · exact .refl _
  · split
    · exact modSlot_alike s _ h _ (fun _ => ⟨rfl, rfl, rfl, rfl, rfl⟩)
    · exact .refl _

theorem becomeReady_alike (s : State) (g h : GroupId) : s.groups[h].Alike (s.becomeReady g).groups[h] :=
  (modSlot_alike s g h (fun sl => { sl with phase := .ready }) (fun _ => ⟨rfl, rfl, rfl, rfl, rfl⟩)).trans
    (startDrain_alike _ h)

theorem takeFence_alike (s : State) (g h : GroupId) (n : Nat) : s.groups[h].Alike (s.takeFence g n).groups[h] := by
  unfold State.takeFence
  simp only
  split
  · exact modSlot_alike (s.markFence g) g h _ (fun _ => ⟨rfl, rfl, rfl, rfl, rfl⟩)
  · exact modSlot_alike s g h _ (fun _ => ⟨rfl, rfl, rfl, rfl, rfl⟩)

@[simp] theorem logRecord_groups (s : State) (i : Fin 4) (ts : Stamp) (b : LogBody) :
    (s.logRecord i ts b).groups = s.groups := by rw [logRecord_eq]

@[simp] theorem logRecord_regions (s : State) (i : Fin 4) (ts : Stamp) (b : LogBody) :
    (s.logRecord i ts b).regions = s.regions := by rw [logRecord_eq]

@[simp] theorem logRecord_stall (s : State) (i : Fin 4) (ts : Stamp) (b : LogBody) :
    (s.logRecord i ts b).stall = s.stall := by rw [logRecord_eq]

@[simp] theorem logRecord_responses (s : State) (i : Fin 4) (ts : Stamp) (b : LogBody) :
    (s.logRecord i ts b).responses = s.responses := by rw [logRecord_eq]

@[simp] theorem logRecord_ready (s : State) (i : Fin 4) (ts : Stamp) (b : LogBody) :
    (s.logRecord i ts b).ready = s.ready := by rw [logRecord_eq]

@[simp] theorem logRecord_forwardQueue (s : State) (i : Fin 4) (ts : Stamp) (b : LogBody) :
    (s.logRecord i ts b).forwardQueue = s.forwardQueue := by rw [logRecord_eq]

@[simp] theorem reportSeal_groups (s : State) (g : GroupId) (ts : Stamp) (b : LogBody) :
    (s.reportSeal g ts b).groups = s.groups := by simp [State.reportSeal]

theorem reportSeal_alike (s : State) (g h : GroupId) (ts : Stamp) (b : LogBody) :
    s.groups[h].Alike (s.reportSeal g ts b).groups[h] := by
  rw [show (s.reportSeal g ts b).groups[h] = s.groups[h] by simp]
  exact .refl _

/-- The sealed group's record after its seal, but for the phase and the fence count of the new slot (R81). -/
theorem sealGroup_group (s : State) (g : GroupId) (c : SealCause) (ts : Stamp) :
    (s.groups[g].takeSeal (s.newSlot g) c).Alike (s.sealGroup g c ts).groups[g] := by
  have h1 : (s.takeSeal g c).groups[g] = s.groups[g].takeSeal (s.newSlot g) c := by
    simp [State.takeSeal]
  have h2 := takeFence_alike (s.takeSeal g c) g g (s.openCount g)
  rw [h1] at h2
  unfold State.sealGroup
  simp only
  split
  · exact (h2.trans (reportSeal_alike _ g g ts _)).trans (becomeReady_alike _ g g)
  · exact h2.trans (reportSeal_alike _ g g ts _)

/-- Another group's record after the seal, but for the phase of its slot. -/
theorem sealGroup_other (s : State) {g h : GroupId} (e : h ≠ g) (c : SealCause) (ts : Stamp) :
    s.groups[h].Alike (s.sealGroup g c ts).groups[h] := by
  have e' : (g : Nat) ≠ h := fun k => e (Fin.ext k).symm
  have h1 : (s.takeSeal g c).groups[h] = s.groups[h] := by
    simp [State.takeSeal, Vector.getElem_set_ne, e']
  have h2 := takeFence_alike (s.takeSeal g c) g h (s.openCount g)
  rw [h1] at h2
  unfold State.sealGroup
  simp only
  split
  · exact (h2.trans (reportSeal_alike _ g h ts _)).trans (becomeReady_alike _ g h)
  · exact h2.trans (reportSeal_alike _ g h ts _)

/-! ### The rest of the state -/

theorem startDrain_eq (s : State) :
    s.startDrain = { s with groups := s.startDrain.groups, nextIssue := s.startDrain.nextIssue } := by
  unfold State.startDrain
  split
  · rfl
  · split <;> rfl

theorem becomeReady_eq (s : State) (g : GroupId) :
    s.becomeReady g = { s with
      groups := (s.becomeReady g).groups
      ready := s.ready ++ [g]
      nextIssue := (s.becomeReady g).nextIssue } := by
  unfold State.becomeReady
  simp only
  rw [startDrain_eq]
  rfl

theorem takeFence_eq (s : State) (g : GroupId) (n : Nat) :
    s.takeFence g n = { s with
      groups := (s.takeFence g n).groups
      forwardQueue := (s.takeFence g n).forwardQueue
      outstanding := (s.takeFence g n).outstanding
      tracker := (s.takeFence g n).tracker } := by
  unfold State.takeFence
  simp only
  split <;> rfl

/-- A seal changes the group records, the pool's roles, the regions' states, the fence marks, the ready queue, the log
and the event unit, and nothing else. -/
theorem sealGroup_eq (s : State) (g : GroupId) (c : SealCause) (ts : Stamp) :
    s.sealGroup g c ts = { s with
      groups := (s.sealGroup g c ts).groups
      pool := (s.takeSeal g c).pool
      regions := (s.takeSeal g c).regions
      forwardQueue := (s.sealGroup g c ts).forwardQueue
      outstanding := (s.sealGroup g c ts).outstanding
      tracker := (s.sealGroup g c ts).tracker
      ready := (s.sealGroup g c ts).ready
      nextIssue := (s.sealGroup g c ts).nextIssue
      log := (s.sealGroup g c ts).log
      events := (s.sealGroup g c ts).events } := by
  unfold State.sealGroup
  simp only
  split
  · rw [becomeReady_eq, State.reportSeal, logRecord_eq, takeFence_eq]
    rfl
  · rw [State.reportSeal, logRecord_eq, takeFence_eq]
    rfl

/-- A seal counts SEALS(g) once (R84). -/
theorem sealGroup_seals (s : State) (g : GroupId) (c : SealCause) (ts : Stamp) :
    (s.sealGroup g c ts).counter (.seals g) = satAdd (s.counter (.seals g)) 1 := by
  have hi : (Counter.seals g).index ≠ Counter.logLostTotal.index := by
    simp only [Counter.index, ne_eq, Fin.ext_iff]
    omega
  have h : ∀ b, ((s.takeSeal g c).takeFence g (s.openCount g) |>.reportSeal g ts b).counter (.seals g) =
      satAdd (s.counter (.seals g)) 1 := by
    intro b
    rw [State.reportSeal, counter_logRecord _ _ _ _ hi, counter_bump_self, takeFence_eq]
    rfl
  unfold State.sealGroup
  simp only
  split
  · rw [becomeReady_eq]
    exact h _
  · exact h _

/-- After a seal of the group it has no OPEN entry (R36). -/
theorem openCount_sealGroup (s : State) (g h : GroupId) (c : SealCause) (ts : Stamp) :
    (s.sealGroup g c ts).openCount h = if h = g then 0 else s.openCount h := by
  rw [sealGroup_eq]
  exact openCount_retag _ g h

end Sys2Proof.Machine
end

