-- ==== Sys2Proof/Laws/Queue.lean ====
section
/-! SUPPORT. What happens at the head of the ready queue: a READY head drains from its entry 0, any other stays as it is,
and a group that becomes READY joins the tail (R88 to R90). -/

namespace Sys2Proof.Machine

/-! ### A group with the head of a queue draining -/

theorem withHeadDraining_of_ne {s : State} {q : List GroupId} {h : GroupId} (k : q.head? ≠ some h) :
    s.withHeadDraining q h = s.groups[h] := if_neg fun e => k e.1

theorem withHeadDraining_of_phase {s : State} {q : List GroupId} {h : GroupId} (k : s.phase h ≠ some .ready) :
    s.withHeadDraining q h = s.groups[h] := if_neg fun e => k e.2

theorem headReady_of_ne {s : State} {q : List GroupId} (k : ∀ h, q.head? = some h → s.phase h ≠ some .ready) :
    s.headReady q = false := by
  unfold State.headReady
  cases hq : q.head? with
  | none => rfl
  | some h => simpa using k h hq

theorem headReady_of_head {s : State} {q : List GroupId} {h : GroupId} (hq : q.head? = some h) :
    s.headReady q = decide (s.phase h = some .ready) := by
  unfold State.headReady
  rw [hq]
  rfl

/-! ### The drain engine takes the head -/

/-- What the drain engine does at the head of the ready queue, at the groups and the next-issue number (R90, R92). -/
theorem startDrain_cases {s : State} (hq : s.quiescing = false) :
    (∀ k : GroupId, s.startDrain.groups[k] = s.withHeadDraining s.ready k) ∧
      s.startDrain.nextIssue = if s.headReady s.ready = true then 0 else s.nextIssue := by
  unfold State.startDrain
  rcases hr : s.ready with _ | ⟨h, l⟩
  · exact ⟨fun k => (withHeadDraining_of_ne (by simp)).symm, rfl⟩
  · dsimp only
    rw [headReady_of_head (q := h :: l) rfl, hq]
    by_cases hp : s.phase h = some .ready
    · rw [if_pos (by simp [hp]), if_pos (by simp [hp])]
      refine ⟨fun k => ?_, rfl⟩
      show ((s.modSlot h fun sl => { sl with phase := .draining }).groups)[k] = _
      by_cases hk : h = k
      · subst hk
        simp [State.modSlot, State.modGroup, State.withHeadDraining, hp]
      · have hk' : (h : Nat) ≠ k := fun e => hk (Fin.ext e)
        rw [withHeadDraining_of_ne (by simpa using hk)]
        simp [State.modSlot, State.modGroup, Vector.getElem_set_ne, hk']
    · rw [if_neg (by simp [hp]), if_neg (by simp [hp])]
      refine ⟨fun k => ?_, rfl⟩
      by_cases hk : h = k
      · subst hk
        exact (withHeadDraining_of_phase hp).symm
      · exact (withHeadDraining_of_ne (by simpa using hk)).symm

/-- A head that is not READY is left as it is. -/
theorem startDrain_idle {s : State} (h : ∀ k : GroupId, s.ready.head? = some k → s.phase k ≠ some .ready) :
    s.startDrain = s := by
  unfold State.startDrain
  rcases hr : s.ready with _ | ⟨k, l⟩
  · rfl
  · have := h k (by rw [hr]; rfl)
    dsimp only
    rw [if_neg]
    simp [this]

theorem startDrain_group_ne {s : State} {g : GroupId} (h : s.ready.head? ≠ some g) :
    s.startDrain.groups[g] = s.groups[g] := by
  unfold State.startDrain
  rcases hr : s.ready with _ | ⟨k, l⟩
  · rfl
  · have e : k ≠ g := fun x => h (by rw [hr, x]; rfl)
    have e' : (k : Nat) ≠ g := fun x => e (Fin.ext x)
    dsimp only
    split
    · simp [State.modSlot, State.modGroup, Vector.getElem_set_ne, e']
    · rfl

/-- Once taken, the head is not READY: to take it again does nothing. -/
theorem startDrain_twice {s : State} (hq : s.quiescing = false) : s.startDrain.startDrain = s.startDrain := by
  apply startDrain_idle
  intro k hk
  rw [startDrain_eq] at hk
  unfold State.phase
  rw [(startDrain_cases hq).1 k]
  unfold State.withHeadDraining
  by_cases hp : s.phase k = some .ready
  · rw [if_pos ⟨hk, hp⟩]
    cases s.groups[k].slot <;> simp
  · rw [if_neg fun e => hp e.2]
    exact hp

/-! ### A generation joins the queue -/

/-- The group that becomes READY: DRAINING at the head of the ready queue, READY elsewhere (R88, R90). -/
theorem becomeReady_group {u : State} {g : GroupId} {sl : SealedSlot} (hs : u.groups[g].slot = some sl)
    (hq : u.quiescing = false) :
    (u.becomeReady g).groups[g] = { u.groups[g] with
      slot := some { sl with
        phase := if u.ready.head? = none ∨ u.ready.head? = some g then .draining else .ready } } := by
  simp only [Fin.getElem_fin] at hs ⊢
  rcases hr : u.ready with _ | ⟨k, l⟩
  · simp [State.becomeReady, State.startDrain, hr, State.modSlot, State.modGroup, State.phase, hq, hs]
  · by_cases e : k = g
    · subst e
      simp [State.becomeReady, State.startDrain, hr, State.modSlot, State.modGroup, State.phase, hq, hs]
    · have e' : (k : Nat) ≠ g := fun x => e (Fin.ext x)
      simp only [State.becomeReady, State.startDrain, State.modSlot, State.modGroup, hr, List.cons_append]
      split
      · simp [Vector.getElem_set_ne, e', e, hs]
      · simp [e, hs]

/-- The other groups and the next-issue number when a group becomes READY behind the queue (R88, R90, R92). -/
theorem becomeReady_others {u : State} {g : GroupId} {sl : SealedSlot} (hs : u.groups[g].slot = some sl)
    (hq : u.quiescing = false) :
    (∀ h : GroupId, h ≠ g → (u.becomeReady g).groups[h] = u.withHeadDraining u.ready h) ∧
      (u.becomeReady g).nextIssue =
        if (u.ready.head? = none ∨ u.ready.head? = some g) ∨ u.headReady u.ready = true then 0 else u.nextIssue := by
  let w : State := { (u.modSlot g fun sl => { sl with phase := .ready }) with ready := u.ready ++ [g] }
  have hw : u.becomeReady g = w.startDrain := rfl
  obtain ⟨b1, b2⟩ := startDrain_cases (s := w) hq
  have wk : ∀ h : GroupId, h ≠ g → w.groups[h] = u.groups[h] := by
    intro h hh
    have e : (g : Nat) ≠ h := fun e => hh (Fin.ext e).symm
    show ((u.modSlot g fun sl => { sl with phase := .ready }).groups)[h] = _
    simp [State.modSlot, State.modGroup, Vector.getElem_set_ne, e]
  have wp : ∀ h : GroupId, h ≠ g → w.phase h = u.phase h := by
    intro h hh
    unfold State.phase
    rw [wk h hh]
  have wg : w.phase g = some .ready := by
    show (((u.modSlot g fun sl => { sl with phase := .ready }).groups)[g].slot.map _) = _
    simp only [Fin.getElem_fin] at hs
    simp [State.modSlot, State.modGroup, hs]
  have wr : w.ready.head? = u.ready.head?.or (some g) := by
    show (u.ready ++ [g]).head? = _
    rw [List.head?_append]
    rfl
  rw [hw]
  constructor
  · intro h hh
    rw [b1 h]
    unfold State.withHeadDraining
    rw [wp h hh, wk h hh, wr]
    cases hr : u.ready.head? with
    | none => simp [hh.symm]
    | some k => simp
  · rw [b2]
    unfold State.headReady
    rw [wr]
    cases hr : u.ready.head? with
    | none => simp [wg]
    | some k =>
      by_cases hk : k = g
      · subst hk
        simp [wg]
      · simp only [Option.some_or, Option.any_some, wp k hk, Option.some.injEq, hk, reduceCtorEq, or_false, false_or]
        rfl

/-! ### The stalled write does not see the queue -/

/-- One judgement of the stalled write leaves the ready queue as it is. -/
theorem judge_queue (s : State) :
    s.judge.1.ready = s.ready ∧ s.judge.1.quiescing = s.quiescing ∧ s.judge.1.nextIssue = s.nextIssue := by
  have offer : ∀ t g a z d, s.offer g a z d = some t →
      t.ready = s.ready ∧ t.quiescing = s.quiescing ∧ t.nextIssue = s.nextIssue := by
    intro t g a z d h
    unfold State.offer at h
    dsimp only at h
    split at h
    · cases h
      exact ⟨rfl, rfl, rfl⟩
    · split at h
      · cases h
        exact ⟨rfl, rfl, rfl⟩
      · cases h
  unfold State.judge
  split
  · exact ⟨rfl, rfl, rfl⟩
  · dsimp only
    split
    · exact ⟨rfl, rfl, rfl⟩
    · exact ⟨rfl, rfl, rfl⟩
    all_goals
      split
      · rename_i h
        obtain ⟨a, b, c⟩ := offer _ _ _ _ _ h
        exact ⟨a, b, c⟩
      · exact ⟨rfl, rfl, rfl⟩

end Sys2Proof.Machine
end

