-- ==== Sys2Proof/Laws/Leaves.lean ====
section
/-! SUPPORT. What a seal leaves, said once for every caller (`sealGroup_leaves`, `sealFull_of_entries`,
`sealFull_leaves_empty`), and what a retry of an EMPTY stall slot does. -/

namespace Sys2Proof.Machine

/-! ### The fence set does not see the retiring of regions -/

theorem inGroupWindow_takeSeal (s : State) (g h : GroupId) (c : SealCause) (a : Addr) :
    (s.takeSeal g c).inGroupWindow h a = s.inGroupWindow h a := by
  unfold State.inGroupWindow
  congr 1
  funext r
  have e : (s.takeSeal g c).regions[r] =
      if s.regions[r].group = g ∧ s.regions[r].state = .retireWait then
        { s.regions[r] with state := .retireDrain } else s.regions[r] := by
    simp [State.takeSeal, State.moveRegions, State.retag, State.modGroup]
  rw [e]
  split
  · rename_i hc
    have h2 := hc.2
    simp only [Fin.getElem_fin] at h2
    simp [Region.active, Region.contains, h2, show (RegionState.retireDrain != .off) = true from rfl,
      show (RegionState.retireWait != .off) = true from rfl]
  · rfl

@[simp] theorem inFence_takeSeal (s : State) (g h : GroupId) (c : SealCause) (x : UTag) :
    (s.takeSeal g c).inFence h x = s.inFence h x := by
  unfold State.inFence
  simp only [inGroupWindow_takeSeal]
  rfl

@[simp] theorem fenceSize_takeSeal (s : State) (g h : GroupId) (c : SealCause) :
    (s.takeSeal g c).fenceSize h = s.fenceMembers h := by
  unfold State.fenceSize State.fenceMembers
  congr 1
  funext x
  exact inFence_takeSeal s g h c x

theorem fenceCount_takeSeal {s : State} {g : GroupId} (c : SealCause) (hn : 0 < s.openCount g) :
    (s.takeSeal g c).fenceCount g (s.openCount g) = s.fenceMembers g := by
  unfold State.fenceCount
  rw [if_pos hn, fenceSize_takeSeal]

/-! ### The log -/

/-- A log depends on the log alone, whoever hands it the record. -/
theorem logRecord_log_congr {s t : State} (h : t.log = s.log) (i : Fin 4) (ts : Stamp) (b : LogBody) :
    (t.logRecord i ts b).log = (s.logRecord i ts b).log := by
  unfold State.logRecord
  rw [h]
  split
  · exact h
  · split
    · dsimp only
      split <;> rfl
    · rfl

/-! ### Transfer between states that agree -/

/-- What a seal leaves, read in a state that agrees with the one left. -/
theorem SealLeaves.congr_right {s t u : State} {g : GroupId} {c : SealCause} {ts : Stamp} (h : SealLeaves s t g c ts)
    (hg : u.groups = t.groups) (hr : u.regions = t.regions) (hf : u.forwardQueue = t.forwardQueue)
    (ho : u.outstanding = t.outstanding) (hk : u.tracker = t.tracker) (hy : u.ready = t.ready)
    (hn : u.nextIssue = t.nextIssue) (hc : u.counter (.seals g) = t.counter (.seals g)) (hl : u.log = t.log)
    (hh : u.hold = t.hold) (hx : u.channel = t.channel) (ha : u.lastGrant = t.lastGrant)
    (hd : u.drainTags = t.drainTags) : SealLeaves s u g c ts where
  slot := by rw [hg]; exact h.slot
  group := by rw [hg]; exact h.group
  others := by rw [hg]; exact h.others
  regions := by rw [hr]; exact h.regions
  forwardQueue := by rw [hf]; exact h.forwardQueue
  outstanding := by rw [ho]; exact h.outstanding
  tracker := by rw [hk]; exact h.tracker
  ready := by rw [hy]; exact h.ready
  nextIssue := by
    unfold State.phase
    rw [hn, hg]
    exact h.nextIssue
  seals := by rw [hc]; exact h.seals
  log := by rw [hl]; exact h.log
  hold := by rw [hh]; exact h.hold
  channel := by rw [hx]; exact h.channel
  lastGrant := by rw [ha]; exact h.lastGrant
  drainTags := by rw [hd]; exact h.drainTags

/-- The fence set sees the requests and the regions alone. -/
theorem inFence_congr {s u : State} (hr : u.regions = s.regions) (hf : u.forwardQueue = s.forwardQueue)
    (ho : u.outstanding = s.outstanding) (g : GroupId) (x : UTag) : u.inFence g x = s.inFence g x := by
  unfold State.inFence State.inGroupWindow
  rw [hf, ho, hr]

theorem fenceMembers_congr {s u : State} {g : GroupId} (h : ∀ x, u.inFence g x = s.inFence g x) :
    u.fenceMembers g = s.fenceMembers g := by
  unfold State.fenceMembers
  congr 1
  funext x
  exact h x

theorem withHeadDraining_congr {s u : State} (hg : u.groups = s.groups) (q : List GroupId) (h : GroupId) :
    u.withHeadDraining q h = s.withHeadDraining q h := by
  unfold State.withHeadDraining State.phase
  rw [hg]

theorem headReady_congr {s u : State} (hg : u.groups = s.groups) (q : List GroupId) :
    u.headReady q = s.headReady q := by
  unfold State.headReady State.phase
  rw [hg]

/-- What a seal leaves, of a state that agrees with the one it was taken in. -/
theorem SealLeaves.congr_left {s t u : State} {g : GroupId} {c : SealCause} {ts : Stamp} (h : SealLeaves s t g c ts)
    (hg : u.groups = s.groups) (hp : u.pool = s.pool) (hr : u.regions = s.regions)
    (hf : u.forwardQueue = s.forwardQueue) (ho : u.outstanding = s.outstanding) (hk : u.tracker = s.tracker)
    (hy : u.ready = s.ready) (hn : u.nextIssue = s.nextIssue) (hc : u.counter (.seals g) = s.counter (.seals g))
    (hl : u.log = s.log) (hh : u.hold = s.hold) (hx : u.channel = s.channel) (ha : u.lastGrant = s.lastGrant)
    (hd : u.drainTags = s.drainTags) : SealLeaves u t g c ts := by
  have hfence := inFence_congr hr hf ho g
  have hmem := fenceMembers_congr hfence
  have hopen : u.openCount g = s.openCount g := by unfold State.openCount; rw [hp]
  obtain ⟨sl, hsl, hs⟩ := h.slot
  refine ⟨⟨sl, hsl, ?_⟩, ?_, ?_, ?_, ?_, ?_, ?_, ?_, ?_, ?_, ?_, ?_, ?_, ?_, ?_⟩
  · exact ⟨by rw [hg]; exact hs.gen, hopen ▸ hs.entries, hmem ▸ hs.fence, hs.written, hs.failed, hs.elapsed,
      fun k => hs.fenced (hmem ▸ k), fun k l => hs.draining (hmem ▸ k) (hy ▸ l),
      fun x k l => hs.ready x (hmem ▸ k) (hy ▸ l)⟩
  · rw [hg]; exact h.group
  · rw [hmem, hy]
    simp only [withHeadDraining_congr hg, hg]
    exact h.others
  · rw [hr]; exact h.regions
  · rw [hf, hk]
    simp only [hfence]
    exact h.forwardQueue
  · rw [ho, hk]
    simp only [hfence]
    exact h.outstanding
  · rw [hk]
    simp only [hfence]
    exact h.tracker
  · rw [hy, hmem]; exact h.ready
  · rw [hmem, hy, hn, headReady_congr hg]; exact h.nextIssue
  · rw [hc]; exact h.seals
  · rw [h.log, logRecord_log_congr hl, hg, hopen, hmem]
  · rw [hh]; exact h.hold
  · rw [hx]; exact h.channel
  · rw [ha]; exact h.lastGrant
  · rw [hd]; exact h.drainTags

/-! ### What a seal leaves of its group, field by field -/

theorem SealLeaves.openGen {s t : State} {g : GroupId} {c : SealCause} {ts : Stamp} (h : SealLeaves s t g c ts) :
    t.groups[g].openGen = s.groups[g].openGen + 1 := by rw [h.group]

theorem SealLeaves.dividerCount {s t : State} {g : GroupId} {c : SealCause} {ts : Stamp} (h : SealLeaves s t g c ts) :
    t.groups[g].dividerCount = if c = .manual then 0 else s.groups[g].dividerCount := by rw [h.group]

theorem SealLeaves.pending {s t : State} {g : GroupId} {c : SealCause} {ts : Stamp} (h : SealLeaves s t g c ts) :
    t.groups[g].pendingRetire = (c != .retire && s.groups[g].pendingRetire) := by rw [h.group]

theorem EmptySealLeaves.slot {s t : State} {g : GroupId} {c : SealCause} {ts : Stamp}
    (h : EmptySealLeaves s t g c ts) : t.groups[g].slot = none := by rw [h.group]

theorem EmptySealLeaves.openGen {s t : State} {g : GroupId} {c : SealCause} {ts : Stamp}
    (h : EmptySealLeaves s t g c ts) : t.groups[g].openGen = s.groups[g].openGen + 1 := by rw [h.group]

theorem EmptySealLeaves.dividerCount {s t : State} {g : GroupId} {c : SealCause} {ts : Stamp}
    (h : EmptySealLeaves s t g c ts) :
    t.groups[g].dividerCount = if c = .manual then 0 else s.groups[g].dividerCount := by rw [h.group]

theorem EmptySealLeaves.pending {s t : State} {g : GroupId} {c : SealCause} {ts : Stamp}
    (h : EmptySealLeaves s t g c ts) : t.groups[g].pendingRetire = false := by rw [h.group]

/-! ### The seal of a generation with entries -/

/-- Steps 1 to 6 of a seal with entries, piece by piece. -/
theorem takeFence_groups (s : State) (g : GroupId) (c : SealCause) (hn : 0 < s.openCount g) :
    ((s.takeSeal g c).takeFence g (s.openCount g)).groups[g] =
      { s.groups[g].takeSeal (s.newSlot g) c with
        slot := some { s.newSlot g with fence := s.fenceMembers g } } := by
  unfold State.takeFence
  rw [fenceCount_takeSeal c hn, if_pos hn]
  simp [State.modSlot, State.modGroup, State.markFence, State.takeSeal, State.retag, State.moveRegions,
    Group.takeSeal]

theorem takeFence_others (s : State) {g h : GroupId} (c : SealCause) (n : Nat) (hh : h ≠ g) :
    ((s.takeSeal g c).takeFence g n).groups[h] = s.groups[h] := by
  have e : (g : Nat) ≠ h := fun e => hh (Fin.ext e).symm
  unfold State.takeFence
  split <;> simp [State.modSlot, State.modGroup, State.markFence, State.takeSeal, State.retag, State.moveRegions,
    Vector.getElem_set_ne, e]

/-- The report of a seal changes the log and the event unit alone. -/
theorem reportSeal_eq (s : State) (g : GroupId) (ts : Stamp) (b : LogBody) :
    s.reportSeal g ts b =
      { s with log := (s.reportSeal g ts b).log, events := (s.reportSeal g ts b).events } := by
  unfold State.reportSeal
  rw [logRecord_eq]
  rfl

/-- The record of a group after step 1 of its seal, but for the slot (R74, R77, R81). -/
theorem takeSeal_record (r : Group) (sl : SealedSlot) (c : SealCause) (x : Option SealedSlot) :
    { r.takeSeal sl c with slot := x } =
      { r with
        slot := x
        openGen := r.openGen + 1
        dividerCount := if c = .manual then 0 else r.dividerCount
        pendingRetire := c != .retire && r.pendingRetire } := by
  cases c <;> rfl

/-- A state that differs from another in the fields a seal writes has those fields of its own. -/
theorem own_fields {s u : State} {groups : Vector Group 4} {pool : List Entry} {regions : Vector Region 8}
    {forwardQueue : List FwdReq} {outstanding : Vector (Option OutReq) 16}
    {tracker : Vector (Option ReadRecord) 16} {log : Log} {events : Events}
    (h : u = { s with
      groups := groups, pool := pool, regions := regions, forwardQueue := forwardQueue, outstanding := outstanding
      tracker := tracker, log := log, events := events }) :
    u = { s with
      groups := u.groups, pool := u.pool, regions := u.regions, forwardQueue := u.forwardQueue
      outstanding := u.outstanding, tracker := u.tracker, log := u.log, events := u.events } := by
  rw [h]

/-- What a seal of a group with OPEN entries leaves (R81 steps 1 to 7). -/
theorem sealGroup_leaves {s : State} {g : GroupId} (c : SealCause) (ts : Stamp) (hn : 0 < s.openCount g)
    (hq : s.quiescing = false) : SealLeaves s (s.sealGroup g c ts) g c ts := by
  let u := ((s.takeSeal g c).takeFence g (s.openCount g)).reportSeal g ts
    (.sealed s.groups[g].openGen (s.openCount g) c (s.fenceMembers g))
  have hs : s.sealGroup g c ts = if s.fenceMembers g = 0 then u.becomeReady g else u := by
    unfold State.sealGroup
    simp only [fenceCount_takeSeal c hn]
    by_cases h : s.fenceMembers g = 0
    · rw [if_pos ⟨hn, h⟩, if_pos h]
    · rw [if_neg (fun k => h k.2), if_neg h]
  have hg : u.groups[g] = { s.groups[g].takeSeal (s.newSlot g) c with
      slot := some { s.newSlot g with fence := s.fenceMembers g } } := by
    rw [show u.groups = ((s.takeSeal g c).takeFence g (s.openCount g)).groups by simp [u]]
    exact takeFence_groups s g c hn
  have hmark : (s.takeSeal g c).takeFence g (s.openCount g) =
      ((s.takeSeal g c).markFence g).modSlot g fun sl => { sl with fence := s.fenceMembers g } := by
    unfold State.takeFence
    rw [fenceCount_takeSeal c hn, if_pos hn]
  have hready : u.ready = s.ready := by
    rw [show u = _ from reportSeal_eq _ _ _ _, takeFence_eq]
    rfl
  have hquiet : u.quiescing = false := by
    rw [show u = _ from reportSeal_eq _ _ _ _, hmark]
    exact hq
  have hlog : u.log = (s.logRecord g ts
      (.sealed s.groups[g].openGen (s.openCount g) c (s.fenceMembers g))).log :=
    logRecord_log_congr (by rw [takeFence_eq]; rfl) _ _ _
  have hregions : ∀ r : RegionId, u.regions[r] =
      if s.regions[r].group = g ∧ s.regions[r].state = .retireWait then
        { s.regions[r] with state := .retireDrain } else s.regions[r] := by
    intro r
    rw [show u = _ from reportSeal_eq _ _ _ _, hmark]
    simp [State.takeSeal, State.moveRegions, State.retag, State.modGroup, State.modSlot, State.markFence]
  have htrack : (s.takeSeal g c).tracker = s.tracker := rfl
  have hfq : u.forwardQueue = s.forwardQueue.map fun q =>
      if s.inFence g q.tag = true ∧ s.tracker[q.tag] = none then { q with mark := some g } else q := by
    rw [show u = _ from reportSeal_eq _ _ _ _, hmark]
    simp only [State.markFence, State.modSlot, State.modGroup, inFence_takeSeal, htrack,
      Bool.and_eq_true, Option.isNone_iff_eq_none]
    rfl
  have hout : ∀ x : UTag, u.outstanding[x] =
      if s.inFence g x = true ∧ s.tracker[x] = none then s.outstanding[x].map fun o => { o with mark := some g }
      else s.outstanding[x] := by
    intro x
    rw [show u = _ from reportSeal_eq _ _ _ _, hmark]
    simp only [State.markFence, State.modSlot, State.modGroup, inFence_takeSeal, htrack, Bool.and_eq_true,
      Option.isNone_iff_eq_none, Fin.getElem_fin, Vector.getElem_ofFn]
    rfl
  have htr : ∀ x : UTag, u.tracker[x] =
      if s.inFence g x = true then s.tracker[x].map fun q => { q with mark := some g } else s.tracker[x] := by
    intro x
    rw [show u = _ from reportSeal_eq _ _ _ _, hmark]
    simp only [State.markFence, State.modSlot, State.modGroup, inFence_takeSeal, htrack, Fin.getElem_fin,
      Vector.getElem_ofFn]
  have hseals : (s.sealGroup g c ts).counter (.seals g) = satAdd (s.counter (.seals g)) 1 := sealGroup_seals s g c ts
  have hothers : ∀ h : GroupId, h ≠ g → u.groups[h] = s.groups[h] := by
    intro h hh
    rw [show u.groups = ((s.takeSeal g c).takeFence g (s.openCount g)).groups by simp [u]]
    exact takeFence_others s c _ hh
  have hphase : ∀ h : GroupId, h ≠ g → u.phase h = s.phase h := by
    intro h hh
    unfold State.phase
    rw [hothers h hh]
  have hu : u = { s with
      groups := u.groups, pool := u.pool, regions := u.regions, forwardQueue := u.forwardQueue
      outstanding := u.outstanding, tracker := u.tracker, log := u.log, events := u.events } :=
    own_fields ((reportSeal_eq _ _ _ _).trans (congrArg (fun v : State => { v with log := u.log, events := u.events })
      (takeFence_eq _ g _)))
  rw [hs] at hseals ⊢
  by_cases h : s.fenceMembers g = 0
  · rw [if_pos h] at hseals ⊢
    have hb := becomeReady_eq u g
    have hbg : (u.becomeReady g).groups[g] = { s.groups[g].takeSeal (s.newSlot g) c with
        slot := some { s.newSlot g with
          fence := 0
          phase := if s.ready.head? = none ∨ s.ready.head? = some g then .draining else .ready } } := by
      rw [becomeReady_group (by rw [hg]) hquiet, hg, hready, h]
    obtain ⟨ho, hn⟩ := becomeReady_others (sl := { s.newSlot g with fence := s.fenceMembers g }) (by rw [hg]) hquiet
    rw [hready] at ho hn
    refine ⟨⟨_, by rw [hbg], ?_⟩, ?_, ?_, ?_, ?_, ?_, ?_, ?_, ?_, hseals, ?_, ?_, ?_, ?_, ?_⟩
    · refine ⟨rfl, rfl, h.symm, rfl, rfl, rfl, fun k => by omega, fun _ k => by simp [k], fun x _ k l => ?_⟩
      have : s.ready.head? ≠ some g := by rw [k]; exact fun y => l (Option.some.inj y)
      simp [k, l]
    · rw [hbg]; exact takeSeal_record _ _ c _
    · intro k hk
      rw [if_pos h, ho k hk]
      unfold State.withHeadDraining
      rw [hphase k hk, hothers k hk]
    · rw [hb]; exact hregions
    · rw [hb]; exact hfq
    · rw [hb]; exact hout
    · rw [hb]; exact htr
    · rw [hb, if_pos h]; exact congrArg (· ++ [g]) hready
    · have hp : (u.becomeReady g).phase g =
          some (if s.ready.head? = none ∨ s.ready.head? = some g then .draining else .ready) := by
        unfold State.phase
        rw [hbg]
        rfl
      rw [hn, hp, show u.nextIssue = s.nextIssue by rw [hu]]
      unfold State.headReady
      by_cases hx : s.ready.head? = none ∨ s.ready.head? = some g
      · rw [if_pos (.inl hx), if_pos (.inl (by rw [if_pos hx]))]
      · cases hd : s.ready.head? with
        | none => exact absurd (.inl hd) hx
        | some k =>
          rw [hd] at hx
          have hk : k ≠ g := fun e => hx (.inr (by rw [e]))
          simp [hk, h, hphase k hk]
    · rw [hb]; exact hlog
    · rw [hb, hu]
    · rw [hb, hu]
    · rw [hb, hu]
    · rw [hb, hu]
  · rw [if_neg h] at hseals ⊢
    refine ⟨⟨_, by rw [hg], ?_⟩, ?_, ?_, hregions, hfq, hout, htr, ?_, ?_, hseals, hlog, ?_, ?_, ?_, ?_⟩
    · exact ⟨rfl, rfl, rfl, rfl, rfl, rfl, fun _ => rfl, fun k => absurd k h, fun _ k => absurd k h⟩
    · rw [hg]; exact takeSeal_record _ _ c _
    · intro k hk
      rw [if_neg h, hothers k hk]
    · rw [if_neg h]; exact hready
    · have hp : u.phase g = some .fenced := by
        unfold State.phase
        rw [hg]
        rfl
      rw [hp, if_neg (by simp [h]), hu]
    · rw [hu]
    · rw [hu]
    · rw [hu]
    · rw [hu]

/-- A group with the head of the queue draining is not READY at that head. -/
theorem phase_withHeadDraining (s : State) (q : List GroupId) {h : GroupId} (hq : q.head? = some h) :
    (s.withHeadDraining q h).slot.map (·.phase) ≠ some .ready := by
  unfold State.withHeadDraining
  by_cases hp : s.phase h = some .ready
  · rw [if_pos ⟨hq, hp⟩]
    cases s.groups[h].slot <;> simp
  · rw [if_neg fun e => hp e.2]
    exact hp

/-- A seal and then the head of the ready queue, or the head and then the seal: what is left is the same, the group
being in no queue (R81, R90, R96 steps 5 and 6). -/
theorem SealLeaves.startDrain {s t : State} {g : GroupId} {c : SealCause} {ts : Stamp} (h : SealLeaves s t g c ts)
    (hq : s.quiescing = false) (hqt : t.quiescing = false) (hg : g ∉ s.ready) :
    SealLeaves s.startDrain t.startDrain g c ts := by
  obtain ⟨sg, sn⟩ := startDrain_cases hq
  obtain ⟨tg, tn⟩ := startDrain_cases hqt
  have hne : ∀ {h : GroupId}, s.ready.head? = some h → h ≠ g := by
    rintro h hd rfl
    exact hg (List.mem_of_mem_head? hd)
  have hs := startDrain_eq s
  have ht := startDrain_eq t
  obtain ⟨sl, hsl, hS⟩ := h.slot
  have hsg : s.startDrain.groups[g] = s.groups[g] := startDrain_group_ne fun e => hne e rfl
  have htp : t.phase g = some sl.phase := by
    unfold State.phase
    rw [hsl]
    rfl
  have htg : t.startDrain.groups[g] = t.groups[g] := by
    rw [tg g]
    by_cases hp : t.phase g = some .ready
    · apply withHeadDraining_of_ne
      rw [h.ready]
      by_cases h0 : s.fenceMembers g = 0
      · rw [if_pos h0]
        cases hr : s.ready with
        | nil =>
          rw [htp, hS.draining h0 hr] at hp
          cases hp
        | cons k l => exact fun e => hne (by rw [hr]; exact e) rfl
      · rw [if_neg h0]
        exact fun e => hne e rfl
    · exact withHeadDraining_of_phase hp
  have hmem : s.startDrain.fenceMembers g = s.fenceMembers g :=
    fenceMembers_congr (inFence_congr (by rw [hs]) (by rw [hs]) (by rw [hs]) g)
  have hopen : s.startDrain.openCount g = s.openCount g := by
    unfold State.openCount
    rw [hs]
  have hready : s.startDrain.ready = s.ready := by rw [hs]
  have htready : t.startDrain.ready = t.ready := by rw [ht]
  have hsw : ∀ k, s.startDrain.withHeadDraining s.ready k = s.startDrain.groups[k] := by
    intro k
    by_cases hk : s.ready.head? = some k
    · apply withHeadDraining_of_phase
      unfold State.phase
      rw [sg k]
      exact phase_withHeadDraining s _ hk
    · exact withHeadDraining_of_ne hk
  have hshr : s.startDrain.headReady s.ready = false := by
    apply headReady_of_ne
    intro k hk
    unfold State.phase
    rw [sg k]
    exact phase_withHeadDraining s _ hk
  have hfence : ∀ x, s.startDrain.inFence g x = s.inFence g x :=
    inFence_congr (by rw [hs]) (by rw [hs]) (by rw [hs]) g
  have hkeep : ∀ k : GroupId, k ≠ g → s.fenceMembers g ≠ 0 → t.phase k = s.phase k ∧ t.groups[k] = s.groups[k] := by
    intro k hk h0
    have := h.others k hk
    rw [if_neg h0] at this
    exact ⟨by unfold State.phase; rw [this], this⟩
  have hhead : s.fenceMembers g = 0 → ∀ k, t.ready.head? = some k → t.phase k ≠ some .ready := by
    intro h0 k hk
    rw [h.ready, if_pos h0] at hk
    cases hr : s.ready with
    | nil =>
      rw [hr] at hk
      cases hk
      rw [htp, hS.draining h0 hr]
      simp
    | cons j l =>
      have hj : s.ready.head? = some j := by rw [hr]; rfl
      rw [hr] at hk
      cases hk
      unfold State.phase
      rw [h.others k (hne hj), if_pos h0]
      exact phase_withHeadDraining s _ hj
  refine ⟨⟨sl, by rw [htg]; exact hsl, ?_⟩, ?_, ?_, ?_, ?_, ?_, ?_, ?_, ?_, ?_, ?_, ?_, ?_, ?_, ?_⟩
  · exact ⟨by rw [hsg]; exact hS.gen, hopen ▸ hS.entries, hmem ▸ hS.fence, hS.written, hS.failed, hS.elapsed,
      fun k => hS.fenced (hmem ▸ k), fun k l => hS.draining (hmem ▸ k) (hready ▸ l),
      fun x k l => hS.ready x (hmem ▸ k) (hready ▸ l)⟩
  · rw [htg, hsg]; exact h.group
  · intro k hk
    rw [hmem, hready, hsw k, ite_self, sg k, tg k]
    by_cases h0 : s.fenceMembers g = 0
    · have := h.others k hk
      rw [if_pos h0] at this
      rw [← this]
      by_cases hd : t.ready.head? = some k
      · exact withHeadDraining_of_phase (hhead h0 k hd)
      · exact withHeadDraining_of_ne hd
    · obtain ⟨e1, e2⟩ := hkeep k hk h0
      unfold State.withHeadDraining
      rw [h.ready, if_neg h0, e1, e2]
  · rw [hs, ht]; exact h.regions
  · simp only [hfence]
    rw [hs, ht]; exact h.forwardQueue
  · simp only [hfence]
    rw [hs, ht]; exact h.outstanding
  · simp only [hfence]
    rw [hs, ht]; exact h.tracker
  · rw [hmem, htready, hready]; exact h.ready
  · have hph : t.startDrain.phase g = t.phase g := by
      unfold State.phase
      rw [htg]
    rw [tn, sn, hph, hready, hshr, h.nextIssue]
    by_cases h0 : s.fenceMembers g = 0
    · rw [headReady_of_ne (hhead h0)]
      by_cases a : t.phase g = some .draining <;> by_cases b : s.headReady s.ready = true <;> simp [a, b, h0]
    · have e : t.headReady t.ready = s.headReady s.ready := by
        rw [h.ready, if_neg h0]
        unfold State.headReady
        cases hd : s.ready.head? with
        | none => rfl
        | some k => simp [(hkeep k (hne hd) h0).1]
      rw [e]
      have hp : t.phase g = some .fenced := by rw [htp, hS.fenced (by omega)]
      simp [hp, h0]
  · have e : ∀ c, s.startDrain.counter c = s.counter c := by
      intro c
      unfold State.counter
      rw [hs]
    have e' : ∀ c, t.startDrain.counter c = t.counter c := by
      intro c
      unfold State.counter
      rw [ht]
    rw [e, e']; exact h.seals
  · rw [hsg, hopen, hmem, logRecord_log_congr (show s.startDrain.log = s.log by rw [hs]), ht]; exact h.log
  · rw [hs, ht]; exact h.hold
  · rw [hs, ht]; exact h.channel
  · rw [hs, ht]; exact h.lastGrant
  · rw [hs, ht]; exact h.drainTags

/-! ### Seals with the stall slot EMPTY -/

/-- A retry of an EMPTY slot does nothing (R33). -/
theorem retry_of_empty {s : State} (h : s.stall = none) : s.retry = s := by
  unfold State.retry State.judge
  rw [h]

theorem sealGroup_stall (s : State) (g : GroupId) (c : SealCause) (ts : Stamp) :
    (s.sealGroup g c ts).stall = s.stall := by rw [sealGroup_eq]

/-- With no write stalled, a seal of a group with entries is its steps 1 to 7. -/
theorem sealFull_of_entries {s : State} {g : GroupId} (c : SealCause) (ts : Stamp) (hn : 0 < s.openCount g)
    (hst : s.stall = none) : s.sealFull g c ts = s.sealGroup g c ts := by
  unfold State.sealFull
  dsimp only
  rw [if_neg (by omega), retry_of_empty ((sealGroup_stall s g c ts).trans hst)]

/-! ### The seal of an empty generation (R83) -/

/-- A seal of a group with no OPEN entry, up to its completion. -/
theorem sealGroup_empty {s : State} {g : GroupId} (c : SealCause) (ts : Stamp) (hn : s.openCount g = 0) :
    s.sealGroup g c ts = (s.takeSeal g c).reportSeal g ts (.sealed s.groups[g].openGen 0 c 0) := by
  have ht : (s.takeSeal g c).takeFence g 0 = s.takeSeal g c := by
    unfold State.takeFence State.fenceCount
    simp only [Nat.lt_irrefl, if_false]
    simp only [State.modSlot, State.modGroup, State.takeSeal, State.retag, State.moveRegions, Group.takeSeal,
      State.newSlot]
    congr 1
    apply Vector.ext
    intro i hi
    simp only [Vector.getElem_set]
    split <;> simp_all
  unfold State.sealGroup
  rw [hn]
  simp only [ht, Nat.lt_irrefl, false_and, if_false]
  rfl

/-- A DRAIN_DONE report changes the log and the event unit alone. -/
theorem reportDone_eq (s : State) (g : GroupId) (sl : SealedSlot) (a : Bool) :
    s.reportDone g sl a =
      { s with log := (s.reportDone g sl a).log, events := (s.reportDone g sl a).events } := by
  unfold State.reportDone
  rw [logRecord_eq]
  rfl

/-- The completion of a group whose sealed slot holds `sl` (R96 steps 1 to 4). -/
theorem finish_of_slot {s : State} {g : GroupId} {sl : SealedSlot} (h : s.groups[g].slot = some sl) :
    s.finish g = ((s.reportDone g sl false).freeSlot g).moveRegions g .retireDrain .off := by
  unfold State.finish
  rw [h]

theorem moveRegions_region (s : State) (g : GroupId) (a b : RegionState) (r : RegionId) :
    (s.moveRegions g a b).regions[r] =
      if s.regions[r].group = g ∧ s.regions[r].state = a then { s.regions[r] with state := b } else s.regions[r] := by
  simp [State.moveRegions]

/-- What a completion of the group leaves of v, whose sealed slot holds `sl` (R96 steps 1 to 4). -/
structure Finished (v t : State) (g : GroupId) (sl : SealedSlot) : Prop where
  groups : t.groups = v.groups.set g { v.groups[g] with slot := none }
  regions : t.regions = (v.moveRegions g .retireDrain .off).regions
  pool : t.pool = v.pool
  stall : t.stall = v.stall
  forwardQueue : t.forwardQueue = v.forwardQueue
  outstanding : t.outstanding = v.outstanding
  tracker : t.tracker = v.tracker
  ready : t.ready = v.ready.filter fun k => k ≠ g
  timebase : t.timebase = v.timebase
  log : t.log = (v.logRecord g v.now (.drainDone sl.gen sl.written sl.failed false sl.elapsed)).log
  counters : ∀ c : Counter, c.index ≠ Counter.logLostTotal.index → t.counter c = v.counter c
  done : t.flagSet (.done g) = true
  quiescing : t.quiescing = v.quiescing
  nextIssue : t.nextIssue = v.nextIssue
  hold : t.hold = v.hold
  channel : t.channel = v.channel
  lastGrant : t.lastGrant = v.lastGrant
  drainTags : t.drainTags = v.drainTags

theorem finish_finished {v : State} {g : GroupId} {sl : SealedSlot} (h : v.groups[g].slot = some sl) :
    Finished v (v.finish g) g sl := by
  rw [finish_of_slot h]
  have hc : ∀ c : Counter, c.index ≠ Counter.logLostTotal.index →
      (v.reportDone g sl false).counter c = v.counter c := by
    intro c hi
    unfold State.reportDone
    rw [counter_raise, counter_logRecord _ _ _ _ hi]
  have hd : (v.reportDone g sl false).flagSet (.done g) = true := flagSet_raise_self _ _
  have hl : (v.reportDone g sl false).log =
      (v.logRecord g v.now (.drainDone sl.gen sl.written sl.failed false sl.elapsed)).log := rfl
  have he := reportDone_eq v g sl false
  generalize v.reportDone g sl false = u at hc hd hl he
  have h1 : u.groups = v.groups := by rw [he]
  have h2 : u.regions = v.regions := by rw [he]
  have h3 : u.pool = v.pool := by rw [he]
  have h4 : u.stall = v.stall := by rw [he]
  have h5 : u.forwardQueue = v.forwardQueue := by rw [he]
  have h6 : u.outstanding = v.outstanding := by rw [he]
  have h7 : u.tracker = v.tracker := by rw [he]
  have h8 : u.ready = v.ready := by rw [he]
  have h9 : u.timebase = v.timebase := by rw [he]
  have h10 : u.quiescing = v.quiescing := by rw [he]
  have h11 : u.nextIssue = v.nextIssue := by rw [he]
  have h12 : u.hold = v.hold := by rw [he]
  have h13 : u.channel = v.channel := by rw [he]
  have h14 : u.lastGrant = v.lastGrant := by rw [he]
  have h15 : u.drainTags = v.drainTags := by rw [he]
  clear he
  refine ⟨?_, ?_, h3, h4, h5, h6, h7, ?_, h9, hl, hc, hd, h10, h11, h12, h13, h14, h15⟩
  · simp only [State.moveRegions, State.freeSlot, State.modGroup, h1]
  · simp only [State.moveRegions, State.freeSlot, State.modGroup, h2]
  · simp only [State.moveRegions, State.freeSlot, State.modGroup, h8]

/-- What the steps 1 to 6 of a seal of an empty generation leave of s, the new slot being `sl`. -/
structure EmptySealed (s v : State) (g : GroupId) (c : SealCause) (ts : Stamp) : Prop where
  group : v.groups[g] = s.groups[g].takeSeal (s.newSlot g) c
  regions : v.regions = (s.moveRegions g .retireWait .retireDrain).regions
  pool : v.pool = s.pool
  stall : v.stall = s.stall
  forwardQueue : v.forwardQueue = s.forwardQueue
  outstanding : v.outstanding = s.outstanding
  tracker : v.tracker = s.tracker
  ready : v.ready = s.ready
  timebase : v.timebase = s.timebase
  log : v.log = (s.logRecord g ts (.sealed s.groups[g].openGen 0 c 0)).log
  seals : v.counter (.seals g) = satAdd (s.counter (.seals g)) 1
  others : ∀ h : GroupId, h ≠ g → v.groups[h] = s.groups[h]
  quiescing : v.quiescing = s.quiescing
  nextIssue : v.nextIssue = s.nextIssue
  hold : v.hold = s.hold
  channel : v.channel = s.channel
  lastGrant : v.lastGrant = s.lastGrant
  drainTags : v.drainTags = s.drainTags

theorem sealGroup_emptySealed {s : State} {g : GroupId} (c : SealCause) (ts : Stamp) (hn : s.openCount g = 0) :
    EmptySealed s (s.sealGroup g c ts) g c ts := by
  have hseals := sealGroup_seals s g c ts
  rw [sealGroup_empty c ts hn] at hseals ⊢
  have hpool : (s.takeSeal g c).pool = s.pool := by
    refine (List.map_congr_left (g := id) ?_).trans (List.map_id _)
    intro e he
    have : ¬ e.isOf g .opened = true := by
      intro hc
      have : 0 < s.openCount g := List.countP_pos_iff.2 ⟨e, he, hc⟩
      omega
    rw [if_neg this]
    rfl
  have hgroup : (s.takeSeal g c).groups[g] = s.groups[g].takeSeal (s.newSlot g) c := by
    simp [State.takeSeal, State.retag, State.modGroup]
  have hlog : ((s.takeSeal g c).reportSeal g ts (.sealed s.groups[g].openGen 0 c 0)).log =
      (s.logRecord g ts (.sealed s.groups[g].openGen 0 c 0)).log := by
    unfold State.reportSeal
    exact logRecord_log_congr (show ((s.takeSeal g c).bump (.seals g) 1).log = s.log from rfl) _ _ _
  have he := reportSeal_eq (s.takeSeal g c) g ts (.sealed s.groups[g].openGen 0 c 0)
  have h2 : (s.takeSeal g c).regions = (s.moveRegions g .retireWait .retireDrain).regions := rfl
  have h4 : (s.takeSeal g c).stall = s.stall := rfl
  have h5 : (s.takeSeal g c).forwardQueue = s.forwardQueue := rfl
  have h6 : (s.takeSeal g c).outstanding = s.outstanding := rfl
  have h7 : (s.takeSeal g c).tracker = s.tracker := rfl
  have h8 : (s.takeSeal g c).ready = s.ready := rfl
  have h9 : (s.takeSeal g c).timebase = s.timebase := rfl
  have h10 : (s.takeSeal g c).quiescing = s.quiescing := rfl
  have h11 : (s.takeSeal g c).nextIssue = s.nextIssue := rfl
  have h12 : (s.takeSeal g c).hold = s.hold := rfl
  have h13 : (s.takeSeal g c).channel = s.channel := rfl
  have h14 : (s.takeSeal g c).lastGrant = s.lastGrant := rfl
  have h15 : (s.takeSeal g c).drainTags = s.drainTags := rfl
  have hothers : ∀ h : GroupId, h ≠ g → (s.takeSeal g c).groups[h] = s.groups[h] := by
    intro h hh
    have e : (g : Nat) ≠ h := fun e => hh (Fin.ext e).symm
    simp [State.takeSeal, State.retag, State.moveRegions, State.modGroup, Vector.getElem_set_ne, e]
  generalize (s.takeSeal g c).reportSeal g ts (.sealed s.groups[g].openGen 0 c 0) = v at hseals hlog he
  generalize s.takeSeal g c = u at hpool hgroup he h2 h4 h5 h6 h7 h8 h9 h10 h11 h12 h13 h14 h15 hothers
  refine ⟨?_, ?_, ?_, ?_, ?_, ?_, ?_, ?_, ?_, hlog, hseals, ?_, ?_, ?_, ?_, ?_, ?_, ?_⟩
  · rw [he]; exact hgroup
  · rw [he]; exact h2
  · rw [he]; exact hpool
  · rw [he]; exact h4
  · rw [he]; exact h5
  · rw [he]; exact h6
  · rw [he]; exact h7
  · rw [he]; exact h8
  · rw [he]; exact h9
  · rw [he]; exact hothers
  · rw [he]; exact h10
  · rw [he]; exact h11
  · rw [he]; exact h12
  · rw [he]; exact h13
  · rw [he]; exact h14
  · rw [he]; exact h15

/-- An empty generation sealed and completed, before the head of the ready queue drains. -/
theorem completed_empty {s v u : State} {g : GroupId} {c : SealCause} {ts : Stamp}
    (h : EmptySealed s v g c ts) (k : Finished v u g (s.newSlot g))
    (hp : c = .retire ∨ s.groups[g].pendingRetire = false) (hq : s.quiescing = false) :
    u.groups[g].pendingRetire = false ∧ EmptySealLeaves s u.startDrain g c ts := by
  have hgroup : u.groups[g] = { s.groups[g].takeSeal (s.newSlot g) c with slot := none } := by
    rw [k.groups, ← h.group]
    simp
  have hpend : u.groups[g].pendingRetire = false := by
    rw [hgroup]
    rcases hp with rfl | hp
    · rfl
    · cases c <;> first | rfl | exact hp
  have hregions : ∀ r : RegionId, u.regions[r] =
      if s.regions[r].group = g ∧ (s.regions[r].state = .retireWait ∨ s.regions[r].state = .retireDrain) then
        { s.regions[r] with state := .off } else s.regions[r] := by
    intro r
    have h1 : u.regions[r] = (v.moveRegions g .retireDrain .off).regions[r] := by rw [k.regions]
    have h2 : v.regions[r] = (s.moveRegions g .retireWait .retireDrain).regions[r] := by rw [h.regions]
    rw [moveRegions_region] at h1 h2
    rw [h1, h2]
    generalize s.regions[r] = q
    rcases q with ⟨_, _, k, _, _, _ | _ | _ | _⟩ <;> by_cases e : k = g <;> simp [e]
  have hready : u.ready = s.ready.filter fun h => h ≠ g := by rw [k.ready, h.ready]
  have hhead : u.ready.head? ≠ some g := by
    rw [hready]
    intro h
    have := List.mem_filter.1 (List.mem_of_mem_head? (Option.mem_def.2 h))
    simp at this
  have hnow : v.now = s.now := by unfold State.now; rw [h.timebase]
  have hnow' : u.now = s.now := by unfold State.now; rw [k.timebase, h.timebase]
  have hlog : u.log = ((s.logRecord g ts (.sealed s.groups[g].openGen 0 c 0)).logRecord g s.now
      (.drainDone s.groups[g].openGen 0 0 false 0)).log := by
    rw [k.log, hnow]
    exact logRecord_log_congr h.log _ _ _
  have hseals : u.counter (.seals g) = satAdd (s.counter (.seals g)) 1 := by
    rw [k.counters, h.seals]
    simp only [Counter.index, ne_eq, Fin.ext_iff]
    omega
  have h1 := k.pool.trans h.pool
  have h2 := k.forwardQueue.trans h.forwardQueue
  have h3 := k.outstanding.trans h.outstanding
  have h4 := k.tracker.trans h.tracker
  have hdone := k.done
  have huq : u.quiescing = false := k.quiescing.trans (h.quiescing.trans hq)
  have hun := k.nextIssue.trans h.nextIssue
  have h7 := k.hold.trans h.hold
  have h8 := k.channel.trans h.channel
  have h9 := k.lastGrant.trans h.lastGrant
  have h10 := k.drainTags.trans h.drainTags
  have hothers : ∀ x : GroupId, x ≠ g → u.groups[x] = s.groups[x] := by
    intro x hx
    have e : (g : Nat) ≠ x := fun e => hx (Fin.ext e).symm
    rw [← h.others x hx]
    simp only [k.groups]
    simp [Vector.getElem_set_ne, e]
  clear k h
  refine ⟨hpend, ?_⟩
  obtain ⟨hdg, hdn⟩ := startDrain_cases huq
  have hphase : ∀ x : GroupId, x ≠ g → u.phase x = s.phase x := by
    intro x hx
    unfold State.phase
    rw [hothers x hx]
  have hwith : ∀ x : GroupId, x ≠ g → u.withHeadDraining u.ready x = s.withHeadDraining u.ready x := by
    intro x hx
    unfold State.withHeadDraining
    rw [hphase x hx, hothers x hx]
  have hhr : u.headReady u.ready = s.headReady u.ready := by
    cases hd : u.ready.head? with
    | none =>
      unfold State.headReady
      rw [hd]
      rfl
    | some x =>
      have hx : x ≠ g := by
        rintro rfl
        exact hhead hd
      rw [headReady_of_head hd, headReady_of_head hd, hphase x hx]
  rw [hhr, hun] at hdn
  have hd := startDrain_eq u
  have hds : u.startDrain.groups[g] = u.groups[g] := startDrain_group_ne hhead
  have h6 : u.startDrain.now = s.now := by rw [hd]; exact hnow'
  have hdr : u.startDrain.ready = u.ready := by rw [hd]
  generalize u.startDrain = w at hd hds h6 hdg hdn hdr
  refine ⟨?_, ?_, ?_, ?_, ?_, ?_, ?_, ?_, ?_, ?_, ?_, ?_, ?_, ?_, ?_, ?_⟩
  · rw [hds]
    have := takeSeal_record s.groups[g] (s.newSlot g) c none
    rw [← hgroup] at this
    rw [this]
    congr 1
    rw [← hpend, hgroup]
    cases c <;> rfl
  · intro x hx
    rw [hdg x, hdr, hwith x hx]
  · rw [hd]; exact h1
  · rw [hd]; exact hregions
  · rw [hd]; exact h2
  · rw [hd]; exact h3
  · rw [hd]; exact h4
  · rw [hd]; exact hready
  · rw [hdn, hdr]
  · rw [hd]; exact hseals
  · rw [hd]; exact hdone
  · rw [h6, hd]; exact hlog
  · rw [hd]; exact h7
  · rw [hd]; exact h8
  · rw [hd]; exact h9
  · rw [hd]; exact h10

/-- The seal of an empty generation and the head of the ready queue, in either order: what is left is the same, the
group being in no queue (R83, R90, R96 steps 5 and 6). -/
theorem EmptySealLeaves.startDrain {s t : State} {g : GroupId} {c : SealCause} {ts : Stamp}
    (h : EmptySealLeaves s t g c ts) (hq : s.quiescing = false) (hg : g ∉ s.ready) :
    EmptySealLeaves s.startDrain t.startDrain g c ts := by
  have hr : t.ready = s.ready := by
    rw [h.ready, List.filter_eq_self]
    intro a ha
    simpa using fun e : a = g => hg (e ▸ ha)
  have hne : s.ready.head? ≠ some g := fun e => hg (List.mem_of_mem_head? e)
  obtain ⟨sg, sn⟩ := startDrain_cases hq
  have hs := startDrain_eq s
  have hgr : ∀ k : GroupId, k ≠ g → t.groups[k] = s.startDrain.groups[k] := by
    intro k hk
    rw [h.others k hk, hr, sg k]
  have ht : t.startDrain = t := by
    apply startDrain_idle
    intro k hk
    rw [hr] at hk
    unfold State.phase
    rw [h.others k (by rintro rfl; exact hne hk), hr]
    exact phase_withHeadDraining s _ hk
  have hsr : s.startDrain.ready = s.ready := by rw [hs]
  have hhead : ∀ k, s.ready.head? = some k → s.startDrain.phase k ≠ some .ready := by
    intro k hk
    unfold State.phase
    rw [sg k]
    exact phase_withHeadDraining s _ hk
  rw [ht]
  refine ⟨?_, ?_, ?_, ?_, ?_, ?_, ?_, ?_, ?_, ?_, h.done, ?_, ?_, ?_, ?_, ?_⟩
  · rw [startDrain_group_ne hne]; exact h.group
  · intro k hk
    rw [hgr k hk, hr]
    by_cases hd : s.ready.head? = some k
    · exact (withHeadDraining_of_phase (hhead k hd)).symm
    · exact (withHeadDraining_of_ne hd).symm
  · rw [hs]; exact h.pool
  · rw [hs]; exact h.regions
  · rw [hs]; exact h.forwardQueue
  · rw [hs]; exact h.outstanding
  · rw [hs]; exact h.tracker
  · rw [hsr]; exact h.ready
  · rw [hr, headReady_of_ne hhead, sn, h.nextIssue, hr]
    simp
  · have e : ∀ c, s.startDrain.counter c = s.counter c := by
      intro c
      unfold State.counter
      rw [hs]
    rw [e]; exact h.seals
  · rw [startDrain_group_ne hne, logRecord_log_congr (logRecord_log_congr (show s.startDrain.log = s.log by rw [hs]) _ _ _)]
    exact h.log
  · rw [hs]; exact h.hold
  · rw [hs]; exact h.channel
  · rw [hs]; exact h.lastGrant
  · rw [hs]; exact h.drainTags

/-- What a seal of a group with no OPEN entry leaves, with no write stalled and no pending retire seal of another
cause to follow (R81, R83). -/
theorem sealFull_leaves_empty {s : State} {g : GroupId} {c : SealCause} (ts : Stamp) (hn : s.openCount g = 0)
    (hst : s.stall = none) (hp : c = .retire ∨ s.groups[g].pendingRetire = false) (hq : s.quiescing = false) :
    EmptySealLeaves s (s.sealFull g c ts) g c ts := by
  have hv := sealGroup_emptySealed c ts hn
  unfold State.sealFull State.completeEmpty State.offerPendingLast
  dsimp only
  rw [if_pos hn]
  generalize s.sealGroup g c ts = v at hv
  have hu := finish_finished (v := v) (g := g) (sl := s.newSlot g) (by rw [hv.group]; rfl)
  generalize v.finish g = u at hu
  obtain ⟨h1, h2⟩ := completed_empty hv hu hp hq
  rw [h1]
  simp only [Bool.false_and, Bool.false_eq_true, if_false]
  rw [retry_of_empty]
  · exact h2
  · rw [startDrain_eq]
    exact hu.stall.trans (hv.stall.trans hst)

end Sys2Proof.Machine
end

