-- ==== Sys2Proof/Laws/Manual.lean ====
section
/-! SUPPORT. A MANUAL seal in all its cases, and what it keeps of the other groups, so that the seals of several
named groups compose in any order (R74). -/

namespace Sys2Proof.Machine

/-- The group record, with its slot gone from READY to DRAINING at most (R90). -/
def Group.Advanced (a b : Group) : Prop :=
  b = a ∨ (a.slot.map (·.phase) = some .ready ∧
    b = { a with slot := a.slot.map fun sl => { sl with phase := .draining } })

theorem Group.Advanced.trans {a b c : Group} (h : a.Advanced b) (k : b.Advanced c) : a.Advanced c := by
  rcases h with rfl | ⟨h1, rfl⟩
  · exact k
  · rcases k with rfl | ⟨k1, rfl⟩
    · exact .inr ⟨h1, rfl⟩
    · exfalso
      revert k1
      cases a.slot <;> simp

/-- A group whose slot is NONE does not advance. -/
theorem Group.Advanced.none {a b : Group} (h : Group.Advanced a b) (k : a.slot = none) : b = a := by
  rcases h with rfl | ⟨h1, rfl⟩
  · rfl
  · rw [k] at h1; simp at h1

theorem withHeadDraining_advanced (s : State) (q : List GroupId) (h : GroupId) :
    s.groups[h].Advanced (s.withHeadDraining q h) := by
  unfold State.withHeadDraining
  split
  · rename_i k; exact .inr ⟨k.2, rfl⟩
  · exact .inl rfl

/-- What a seal of one group, and all that follows it with no write stalled, keeps of the rest of the part. -/
structure SealKeeps (s t : State) (g : GroupId) : Prop where
  stall : s.stall = none → t.stall = none
  responses : t.responses = s.responses
  timebase : t.timebase = s.timebase
  hold : t.hold = s.hold
  drainTags : t.drainTags = s.drainTags
  channel : t.channel = s.channel
  quiescing : t.quiescing = s.quiescing
  port : t.port = s.port
  fence : ∀ h, h ≠ g → ∀ x, t.inFence h x = s.inFence h x
  others : ∀ h, h ≠ g → t.counter (.seals h) = s.counter (.seals h) ∧ Group.Advanced s.groups[h] t.groups[h]
  flags : ∀ h, s.flagSet (.done h) = true → t.flagSet (.done h) = true

theorem SealKeeps.trans {s t u : State} {g : GroupId} (h : SealKeeps s t g) (k : SealKeeps t u g) :
    SealKeeps s u g where
  stall := fun x => k.stall (h.stall x)
  responses := k.responses.trans h.responses
  timebase := k.timebase.trans h.timebase
  hold := k.hold.trans h.hold
  drainTags := k.drainTags.trans h.drainTags
  channel := k.channel.trans h.channel
  quiescing := k.quiescing.trans h.quiescing
  port := k.port.trans h.port
  fence := fun j hj x => (k.fence j hj x).trans (h.fence j hj x)
  others := fun j hj => ⟨(k.others j hj).1.trans (h.others j hj).1, (h.others j hj).2.trans (k.others j hj).2⟩
  flags := fun j x => k.flags j (h.flags j x)

/-- A flag once set stays set when a flag is raised (R180). -/
theorem flagSet_raise_of_set (s : State) (f k : Flag) (h : s.flagSet k = true) : (s.raise f).flagSet k = true := by
  unfold State.flagSet State.raise at *
  simp only [BitVec.getLsbD_or, h, Bool.true_or]

/-- A flag once set stays set when a record is handed to the log (R161, R163). -/
theorem flagSet_logRecord_of_set (s : State) (i : Fin 4) (ts : Stamp) (b : LogBody) (k : Flag)
    (h : s.flagSet k = true) : (s.logRecord i ts b).flagSet k = true := by
  unfold State.logRecord
  split
  · exact h
  · split
    · dsimp only
      split
      · exact flagSet_raise_of_set _ _ _ h
      · exact h
    · exact flagSet_raise_of_set _ _ _ h

theorem flagSet_startDrain (s : State) (k : Flag) : s.startDrain.flagSet k = s.flagSet k := by
  rw [startDrain_eq]; rfl

/-- A flag once set stays set at a seal. -/
theorem flagSet_sealGroup_of_set (s : State) (g : GroupId) (c ts) (k : Flag) (h : s.flagSet k = true) :
    (s.sealGroup g c ts).flagSet k = true := by
  have h1 : ∀ b, (((s.takeSeal g c).takeFence g (s.openCount g)).reportSeal g ts b).flagSet k = true := by
    intro b
    unfold State.reportSeal
    apply flagSet_logRecord_of_set
    rw [flagSet_bump, takeFence_eq]
    exact h
  unfold State.sealGroup
  dsimp only
  split
  · unfold State.becomeReady
    rw [flagSet_startDrain]
    exact h1 _
  · exact h1 _

theorem sealsIndex_ne (g h : GroupId) (e : h ≠ g) : (Counter.seals g).index ≠ (Counter.seals h).index := by
  simp only [Counter.index, ne_eq, Fin.ext_iff]
  intro k
  exact e (Fin.ext (by omega))

theorem sealsIndex_ne_lost (h : GroupId) : (Counter.seals h).index ≠ Counter.logLostTotal.index := by
  simp only [Counter.index, ne_eq, Fin.ext_iff]
  omega

/-- A seal of one group leaves SEALS of another (R84). -/
theorem sealGroup_seals_ne (s : State) {g h : GroupId} (e : h ≠ g) (c ts) :
    (s.sealGroup g c ts).counter (.seals h) = s.counter (.seals h) := by
  have h1 : ∀ b, (((s.takeSeal g c).takeFence g (s.openCount g)).reportSeal g ts b).counter (.seals h) =
      s.counter (.seals h) := by
    intro b
    unfold State.reportSeal
    rw [counter_logRecord _ _ _ _ (sealsIndex_ne_lost h), counter_bump_ne _ _ (sealsIndex_ne g h e), takeFence_eq]
    rfl
  unfold State.sealGroup
  dsimp only
  split
  · rw [becomeReady_eq]
    exact h1 _
  · exact h1 _

/-- The fence set of a group depends on the tags and addresses under way and on its own windows alone (R86). -/
theorem inFence_of_addresses {s u : State}
    (hf : u.forwardQueue.map (fun q => (q.tag, q.addr)) = s.forwardQueue.map (fun q => (q.tag, q.addr)))
    (ho : ∀ x : UTag, u.outstanding[x].map (·.addr) = s.outstanding[x].map (·.addr)) (h : GroupId)
    (hr : ∀ a, u.inGroupWindow h a = s.inGroupWindow h a) (x : UTag) : u.inFence h x = s.inFence h x := by
  unfold State.inFence
  congr 1
  · have e : ∀ v : State, (v.forwardQueue.any fun q => decide (q.tag = x) && s.inGroupWindow h q.addr) =
        ((v.forwardQueue.map fun q => (q.tag, q.addr)).any fun p => decide (p.1 = x) && s.inGroupWindow h p.2) := by
      intro v; rw [List.any_map]; rfl
    have := e u
    have h2 := e s
    rw [hf, ← h2] at this
    rw [← this]
    congr 1
    funext q
    rw [hr]
  · have := ho x
    revert this
    cases hu : u.outstanding[x] <;> cases hs : s.outstanding[x] <;> simp [hr]
    intro e; rw [e]

/-- The windows of a group are those of its own regions (R86). -/
theorem inGroupWindow_of_regions {s u : State} (h : GroupId)
    (hr : ∀ r : RegionId, s.regions[r].group = h → u.regions[r] = s.regions[r])
    (hr' : ∀ r : RegionId, s.regions[r].group ≠ h → u.regions[r].group ≠ h) (a : Addr) :
    u.inGroupWindow h a = s.inGroupWindow h a := by
  unfold State.inGroupWindow
  congr 1
  funext r
  by_cases e : s.regions[r].group = h
  · rw [hr r e]
  · simp only [decide_eq_false e, decide_eq_false (hr' r e), Bool.false_and]

/-- A seal of a group with entries keeps the rest of the part. -/
theorem sealGroup_keeps {s : State} {g : GroupId} (c ts) (hn : 0 < s.openCount g) (hq : s.quiescing = false) :
    SealKeeps s (s.sealGroup g c ts) g := by
  have L := sealGroup_leaves c ts hn hq
  have hE := sealGroup_eq s g c ts
  have hc := fun (h : GroupId) (e : h ≠ g) => sealGroup_seals_ne s e c ts
  have hf := flagSet_sealGroup_of_set s g c ts
  generalize s.sealGroup g c ts = t at *
  refine ⟨fun h => by rw [hE]; exact h, by rw [hE], by rw [hE], L.hold, L.drainTags, L.channel, by rw [hE],
    by rw [hE], ?_, ?_, fun h => hf _⟩
  · intro h hh x
    apply inFence_of_addresses
    · rw [L.forwardQueue, List.map_map]
      apply List.map_congr_left
      intro q hq
      simp only [Function.comp]
      split <;> rfl
    · intro x
      rw [L.outstanding x]
      split
      · cases s.outstanding[x] <;> rfl
      · rfl
    · apply inGroupWindow_of_regions
      · intro r e
        rw [L.regions r, if_neg (fun k => hh (e ▸ k.1))]
      · intro r e
        rw [L.regions r]
        split <;> exact e
  · intro h hh
    refine ⟨hc h hh, ?_⟩
    rw [L.others h hh]
    split
    · exact withHeadDraining_advanced s _ h
    · exact .inl rfl

/-- An empty generation sealed and finished, up to the drain of the head. -/
structure EmptyFinished (s u : State) (g : GroupId) (c : SealCause) : Prop where
  keep : SealKeeps s u g
  group : u.groups[g] = { s.groups[g].takeSeal (s.newSlot g) c with slot := none }
  pool : u.pool = s.pool
  seals : u.counter (.seals g) = satAdd (s.counter (.seals g)) 1
  done : u.flagSet (.done g) = true

/-- An empty generation sealed and finished keeps the rest of the part (R83). -/
theorem finish_sealGroup_empty {s : State} {g : GroupId} (c ts) (hn : s.openCount g = 0) :
    EmptyFinished s ((s.sealGroup g c ts).finish g) g c := by
  have hv := sealGroup_emptySealed (g := g) c ts hn
  have hE := sealGroup_eq s g c ts
  have hc := fun (h : GroupId) (e : h ≠ g) => sealGroup_seals_ne s e c ts
  have hf := fun k => flagSet_sealGroup_of_set s g c ts (.done k)
  generalize s.sealGroup g c ts = v at *
  have hs : v.groups[g].slot = some (s.newSlot g) := by rw [hv.group]; rfl
  have hu := finish_finished hs
  have hfin := finish_of_slot hs
  have hfree : ∀ u : State, ((u.freeSlot g).moveRegions g .retireDrain .off).responses = u.responses ∧
      ((u.freeSlot g).moveRegions g .retireDrain .off).port = u.port ∧
      ∀ k, ((u.freeSlot g).moveRegions g .retireDrain .off).flagSet (.done k) = u.flagSet (.done k) :=
    fun _ => ⟨rfl, rfl, fun _ => rfl⟩
  have hflag : ∀ k, v.flagSet (.done k) = true → (v.finish g).flagSet (.done k) = true := by
    intro k hk
    rw [hfin, (hfree _).2.2 k]
    unfold State.reportDone
    exact flagSet_raise_of_set _ _ _ (flagSet_logRecord_of_set _ _ _ _ _ hk)
  have hresp : (v.finish g).responses = v.responses ∧ (v.finish g).port = v.port := by
    rw [hfin, (hfree _).1, (hfree _).2.1, reportDone_eq]
    exact ⟨rfl, rfl⟩
  have hvr : v.responses = s.responses ∧ v.port = s.port := by rw [hE]; exact ⟨rfl, rfl⟩
  clear hE hfin hfree
  generalize v.finish g = u at *
  have hreg : ∀ r : RegionId, u.regions[r].group = s.regions[r].group ∧
      (s.regions[r].group ≠ g → u.regions[r] = s.regions[r]) := by
    intro r
    have h1 : u.regions[r] = (v.moveRegions g .retireDrain .off).regions[r] := by rw [hu.regions]
    have h2 : v.regions[r] = (s.moveRegions g .retireWait .retireDrain).regions[r] := by rw [hv.regions]
    rw [moveRegions_region] at h1 h2
    rw [h1, h2]
    constructor
    · split <;> (try split) <;> rfl
    · intro e
      rw [if_neg (fun k : s.regions[r].group = g ∧ _ => e k.1)]
      rw [if_neg (fun k => e k.1)]
  refine ⟨⟨fun h => hu.stall.trans (hv.stall.trans h), hresp.1.trans hvr.1, hu.timebase.trans hv.timebase,
    hu.hold.trans hv.hold, hu.drainTags.trans hv.drainTags, hu.channel.trans hv.channel,
    hu.quiescing.trans hv.quiescing, hresp.2.trans hvr.2, ?_, ?_, fun h k => hflag h (hf h k)⟩, ?_,
    hu.pool.trans hv.pool, ?_, hu.done⟩
  · intro h hh x
    apply inFence_of_addresses
    · rw [hu.forwardQueue, hv.forwardQueue]
    · intro x; rw [hu.outstanding, hv.outstanding]
    · apply inGroupWindow_of_regions
      · intro r e; exact (hreg r).2 (fun k => hh (e ▸ k))
      · intro r e; rw [(hreg r).1]; exact e
  · intro h hh
    refine ⟨(hu.counters _ (sealsIndex_ne_lost h)).trans (hc h hh), .inl ?_⟩
    have e : (g : Nat) ≠ h := fun e => hh (Fin.ext e).symm
    rw [← hv.others h hh]
    simp only [hu.groups]
    simp [Vector.getElem_set_ne, e]
  · rw [← hv.group, hu.groups]
    simp
  · rw [hu.counters _ (sealsIndex_ne_lost g)]; exact hv.seals

/-- The drain of the head keeps everything but that head (R90). -/
theorem startDrain_keeps {s : State} (g : GroupId) (hq : s.quiescing = false) : SealKeeps s s.startDrain g := by
  obtain ⟨hg, -⟩ := startDrain_cases hq
  have hE := startDrain_eq s
  have hf := fun k => flagSet_startDrain s (.done k)
  generalize s.startDrain = t at *
  refine ⟨fun h => by rw [hE]; exact h, by rw [hE], by rw [hE], by rw [hE], by rw [hE], by rw [hE],
    by rw [hE], by rw [hE], ?_, ?_, fun h k => (hf h).trans k⟩
  · intro h hh x; rw [hE]; rfl
  · intro h hh
    refine ⟨by rw [hE]; rfl, ?_⟩
    rw [hg h]
    exact withHeadDraining_advanced s _ h

/-- The head of the ready queue drains, a group whose slot is NONE as it was (R90). -/
theorem startDrain_of_no_slot {s : State} {g : GroupId} (hq : s.quiescing = false) (h : s.groups[g].slot = none) :
    s.startDrain.groups[g] = s.groups[g] := by
  rw [(startDrain_cases hq).1 g]
  exact (withHeadDraining_advanced s _ g).none h

/-- What a MANUAL seal of the group leaves, whether its generation has entries, is empty, or is empty with a retire seal
pending behind it (R74, R77, R81, R83). -/
structure ManualSealLeaves (s t : State) (g : GroupId) : Prop where
  keep : SealKeeps s t g
  pool : t.pool = s.pool.map fun e =>
    if e.group = g ∧ e.role = .opened then { e with role := .sealed, issued := false } else e
  full : 0 < s.openCount g → t.counter (.seals g) = satAdd (s.counter (.seals g)) 1 ∧
            ∃ p : SlotPhase, (p = .fenced ↔ 0 < s.fenceMembers g) ∧ t.groups[g] =
              { s.groups[g] with
                slot := some { phase := p, gen := s.groups[g].openGen, entries := s.openCount g,
                               fence := s.fenceMembers g, written := 0, failed := 0, elapsed := 0 }
                openGen := s.groups[g].openGen + 1, dividerCount := 0 }
  empty : s.openCount g = 0 → s.groups[g].pendingRetire = false →
            t.counter (.seals g) = satAdd (s.counter (.seals g)) 1 ∧ t.flagSet (.done g) = true ∧ t.groups[g] =
              { s.groups[g] with slot := none, openGen := s.groups[g].openGen + 1, dividerCount := 0 }
  pend : s.openCount g = 0 → s.groups[g].pendingRetire = true →
            t.counter (.seals g) = satAdd (satAdd (s.counter (.seals g)) 1) 1 ∧ t.flagSet (.done g) = true ∧
            t.groups[g] =
              { s.groups[g] with
                slot := none, openGen := s.groups[g].openGen + 1 + 1, dividerCount := 0, pendingRetire := false }

/-- Without an OPEN entry of the group there is nothing to re-tag (R36). -/
theorem retag_of_empty {s : State} {g : GroupId} (hn : s.openCount g = 0) :
    s.pool = s.pool.map fun e =>
      if e.group = g ∧ e.role = .opened then { e with role := .sealed, issued := false } else e := by
  symm
  refine (List.map_congr_left (g := id) ?_).trans (List.map_id _)
  intro e he
  rw [if_neg]
  · rfl
  · intro hc
    have : 0 < s.openCount g := List.countP_pos_iff.2 ⟨e, he, by simp [Entry.isOf, hc]⟩
    omega

theorem counter_startDrain (s : State) (k : Counter) : s.startDrain.counter k = s.counter k := by
  rw [startDrain_eq]; rfl

/-- A MANUAL seal with no write stalled, in all its cases (R74, R77, R81, R83). -/
theorem sealFull_manual {s : State} {g : GroupId} (hc : s.canSeal g = true) (hst : s.stall = none) :
    ManualSealLeaves s (s.sealFull g .manual s.now) g := by
  have hq : s.quiescing = false := by
    unfold State.canSeal at hc; revert hc; cases s.quiescing <;> simp
  have hh : s.held = false := by
    unfold State.canSeal at hc; revert hc; cases s.held <;> simp
  by_cases hn : s.openCount g = 0
  · have F := finish_sealGroup_empty (s := s) (g := g) .manual s.now hn
    have e : s.sealFull g .manual s.now =
        ((((s.sealGroup g .manual s.now).finish g).offerPendingLast g).startDrain).retry := by
      unfold State.sealFull
      dsimp only
      rw [if_pos hn]
      rfl
    rw [e]
    generalize (s.sealGroup g .manual s.now).finish g = u at F
    have huq : u.quiescing = false := F.keep.quiescing.trans hq
    by_cases hp : s.groups[g].pendingRetire = true
    · have hup : u.groups[g].pendingRetire = true := by rw [F.group]; exact hp
      have hus : u.groups[g].slot = none := by rw [F.group]
      have huc : u.canSeal g = true := by
        unfold State.canSeal State.held
        rw [huq, hus, F.keep.hold]
        unfold State.held at hh
        rw [hh]; rfl
      have hun : u.openCount g = 0 := by unfold State.openCount; rw [F.pool]; exact hn
      have e2 : u.offerPendingLast g = (((u.sealGroup g .retire u.now).finish g).startDrain).retry := by
        unfold State.offerPendingLast
        rw [hup, huc]
        unfold State.sealLast
        dsimp only
        rw [if_pos hun]
        rfl
      rw [e2]
      have F2 := finish_sealGroup_empty (s := u) (g := g) .retire u.now hun
      generalize (u.sealGroup g .retire u.now).finish g = w at F2
      have hwq : w.quiescing = false := F2.keep.quiescing.trans huq
      have hws : w.stall = none := F2.keep.stall (F.keep.stall hst)
      have hwg : w.groups[g].slot = none := by rw [F2.group]
      have K1 := startDrain_keeps g hwq
      have G1 := startDrain_of_no_slot hwq hwg
      rw [retry_of_empty (K1.stall hws)]
      have hxq : w.startDrain.quiescing = false := K1.quiescing.trans hwq
      have K2 := startDrain_keeps g hxq
      rw [retry_of_empty (K2.stall (K1.stall hws))]
      have G2 := startDrain_of_no_slot hxq (by rw [G1]; exact hwg)
      refine ⟨(F.keep.trans F2.keep).trans (K1.trans K2), ?_, by omega,
        fun _ h => absurd (hp.symm.trans h) (by simp), fun _ _ => ⟨?_, ?_, ?_⟩⟩
      · rw [← retag_of_empty hn, startDrain_eq, startDrain_eq]
        exact F2.pool.trans F.pool
      · rw [counter_startDrain, counter_startDrain, F2.seals, F.seals]
      · rw [flagSet_startDrain, flagSet_startDrain, F2.done]
      · rw [G2, G1, F2.group, F.group]
        rfl
    · have hup : u.groups[g].pendingRetire = false := by
        rw [F.group]
        exact Bool.eq_false_iff.2 hp
      have hus : u.groups[g].slot = none := by rw [F.group]
      have e2 : u.offerPendingLast g = u := by
        unfold State.offerPendingLast
        rw [hup]; rfl
      rw [e2]
      have K1 := startDrain_keeps g huq
      have G1 := startDrain_of_no_slot huq hus
      rw [retry_of_empty (K1.stall (F.keep.stall hst))]
      refine ⟨F.keep.trans K1, ?_, by omega, fun _ _ => ⟨?_, ?_, ?_⟩, fun _ h => absurd h hp⟩
      · rw [← retag_of_empty hn, startDrain_eq]
        exact F.pool
      · rw [counter_startDrain, F.seals]
      · rw [flagSet_startDrain, F.done]
      · rw [G1, F.group]
        rfl
  · have hn' : 0 < s.openCount g := by omega
    rw [sealFull_of_entries _ _ hn' hst]
    have L := sealGroup_leaves (s := s) (g := g) .manual s.now hn' hq
    refine ⟨sealGroup_keeps _ _ hn' hq, ?_, fun _ => ⟨L.seals, ?_⟩, by omega, by omega⟩
    · rw [sealGroup_eq]; exact takeSeal_pool _ _ _
    · obtain ⟨sl, h1, h2⟩ := L.slot
      refine ⟨sl.phase, ?_, ?_⟩
      · constructor
        · intro h
          by_contra k
          have k : s.fenceMembers g = 0 := by omega
          have := L.ready
          rcases hr : s.ready.head? with _ | x
          · have := h2.draining k (by simpa using hr)
            rw [this] at h; simp at h
          · by_cases e : x = g
            · subst e
              have hB : (s.sealGroup x .manual s.now).phase x ≠ some .fenced := by
                unfold State.sealGroup
                have hf := fenceCount_takeSeal (s := s) (g := x) .manual hn'
                dsimp only
                rw [if_pos ⟨hn', hf.trans k⟩]
                have hg := takeFence_groups s x .manual hn'
                unfold State.phase
                rw [becomeReady_group (sl := { s.newSlot x with fence := s.fenceMembers x })]
                · dsimp only
                  split <;> simp
                · rw [reportSeal_groups, hg]
                · rw [reportSeal_eq, takeFence_eq]; exact hq
              apply hB
              unfold State.phase
              rw [h1]
              show some sl.phase = _
              rw [h]
            · have := h2.ready x k hr e
              rw [this] at h; simp at h
        · exact h2.fenced
      · rw [L.group, h1]
        have : sl = { phase := sl.phase, gen := s.groups[g].openGen, entries := s.openCount g,
                               fence := s.fenceMembers g, written := 0, failed := 0, elapsed := 0 } := by
          rw [← h2.gen, ← h2.entries, ← h2.fence, ← h2.written]
          have := h2.failed; have := h2.elapsed; have := h2.written
          cases sl; simp_all
        rw [← this]
        simp

end Sys2Proof.Machine
end

