-- ==== Sys2Proof/Laws/Order.lean ====
section
/-! SUPPORT. Things taken in a free order: whatever the order, it is a permutation of the things, so what holds for
every permutation holds for the one the part takes. -/

namespace Sys2Proof.Machine

theorem insertFree_perm {α : Type} (n : Nat) (a : α) (l : List α) : (insertFree n a l).Perm (a :: l) :=
  List.perm_insertIdx a l (by
    have := Nat.mod_lt (Config.pick n) (show 0 < l.length + 1 by omega)
    omega)

theorem arrange_perm {α : Type} (n : Nat) (l : List α) : (arrange n l).Perm l := by
  fun_induction arrange n l with
  | case1 => exact .refl _
  | case2 => exact .refl _
  | case3 n a b l ih => exact (insertFree_perm n a _).trans (ih.cons a)

/-- What falls inside a tick or an edge comes about in the order of some permutation, and only the count of choices
tells which. -/
theorem applyAll_foldl (s : State) (first : Due → Bool) (l : List Due) :
    ∃ (a b : List Due) (m n : Nat), (a ++ b).Perm l ∧
      s.applyAll first l = b.foldl State.applyDue ((a.foldl State.applyDue (s.drew m)).drew n) := by
  refine ⟨_, _, _, _, ?_, rfl⟩
  refine ((arrange_perm _ _).append (arrange_perm _ _)).trans ?_
  exact List.filter_append_perm first l

/-- At most one event of a counter step matches a source, so a step delivers at most once to a group. -/
theorem stepEvents_cases (t : Timebase) :
    ∃ e ∈ ([[], [.limit], [.markUp], [.limit, .markUp], [.zero], [.zero, .markUp], [.peak], [.peak, .markUp],
      [.zero, .markDown], [.markDown]] : List (List TbEvent)), t.step.events = e := by
  unfold Timebase.step
  split
  · split
    · unfold Timebase.stepUp
      split
      · simp only [eventIf]
        split <;> split <;> simp
      · simp only [eventIf]
        split <;> simp
    · unfold Timebase.stepUpdown
      split
      · simp only [eventIf]
        split <;> split <;> simp
      · simp only [eventIf]
        split
        · split <;> simp
        · split <;> simp
    · unfold Timebase.stepOneshot
      simp only [eventIf]
      split <;> split <;> simp
  · simp

/-- A group's deliveries of one counter step: one if some event matches its source, none otherwise. -/
theorem stepEvents_filter (t : Timebase) (src : Source) :
    (t.step.events.filter fun e => src.matches e).length =
      if t.step.events.any fun e => src.matches e then 1 else 0 := by
  obtain ⟨e, he, h⟩ := stepEvents_cases t
  rw [h]
  fin_cases he <;> cases src <;> rfl

end Sys2Proof.Machine
end

