-- ==== Sys2Proof/Laws/PerInstr.lean ====
section
/-! SUPPORT. Statements made for each command apart. The family `FrameBytes`: a command that names a frame has between
1 and 14 request bytes (Tables 10-5 and 10-6). -/

namespace Sys2Proof.Laws.FrameBytes

open Sys2Proof.Machine

/-- The frame that a command names, if it names one. -/
def frameOf : Instr → Option Frame
  | .upstreamRequest _ _ _ _ _ => none
  | .responseDelivered => none
  | .arbiterGrant => none
  | .downstreamRequestTaken => none
  | .downstreamResponse _ _ _ => none
  | .tick => none
  | .limit => none
  | .zero => none
  | .peak => none
  | .markUp => none
  | .markDown => none
  | .stallTimeout => none
  | .syncArrival => none
  | .hldNAsserted => none
  | .hldNDeasserted => none
  | .filterComplete => none
  | .hardwareReset => none
  | .resetEnd => none
  | .csNRise => none
  | .nakFrame bad => some (.nak bad)
  | .regRead reg => some (.regRead reg)
  | .regWrite reg value => some (.regWrite reg value)
  | .writeTimerMode value => some (.regWrite 0x00 value)
  | .writePrescale value => some (.regWrite 0x01 value)
  | .writePeriodLimit value => some (.regWrite 0x02 value)
  | .writeMark value => some (.regWrite 0x03 value)
  | .writeSyncMode value => some (.regWrite 0x04 value)
  | .writeHoldFilter value => some (.regWrite 0x05 value)
  | .writeStallLimit value => some (.regWrite 0x06 value)
  | .writeLogKinds value => some (.regWrite 0x07 value)
  | .writeLogWatermark value => some (.regWrite 0x08 value)
  | .writeEventEnable value => some (.regWrite 0x09 value)
  | .recordReadRegion index => some (.readRegion index)
  | .recordWriteRegion index fields => some (.writeRegion index fields)
  | .recordReadGroup index => some (.readGroup index)
  | .recordWriteGroup index fields => some (.writeGroup index fields)
  | .recordReadWatch index => some (.readWatch index)
  | .recordWriteWatch index fields => some (.writeWatch index fields)
  | .timerStart arg => some (.timerStart arg)
  | .timerStop arg => some (.timerStop arg)
  | .timerRestart arg => some (.timerRestart arg)
  | .publish mask => some (.publish mask)
  | .discard mask => some (.discard mask)
  | .regionEnable index => some (.regionEnable index)
  | .regionRetire index => some (.regionRetire index)
  | .holdSet arg => some (.holdSet arg)
  | .holdRelease arg => some (.holdRelease arg)
  | .logClear arg => some (.logClear arg)
  | .eventAck mask => some (.eventAck mask)
  | .countersClear arg => some (.countersClear arg)
  | .datapathReset arg => some (.datapathReset arg)
  | .quiesceEnd => none
  | .logPop => some .logPop
  | .logPeek => some .logPeek
  | .probe addr => some (.probe addr)
  | .status => some .status
  | .csNFall => none
  | .sclkByte _ => none

/-- The request bytes of the frame, if the command names one, number 1 to 14 (Tables 10-5 and 10-6). -/
def Statement (i : Instr) : Prop :=
  ∀ f : Frame, frameOf i = some f → 1 ≤ f.bytes.length ∧ f.bytes.length ≤ 14

/-- Every frame has 1 to 14 request bytes. -/
theorem bytes_length (f : Frame) : 1 ≤ f.bytes.length ∧ f.bytes.length ≤ 14 := by
  cases f with
  | nak b => cases b <;> simp [Frame.bytes]
  | _ => simp [Frame.bytes, bytes32, bytes16]

theorem every (i : Instr) : Statement i := fun f _ => bytes_length f

theorem upstreamRequest (tag : UTag) (kind : ReqKind) (addr : Addr) (size : Size) (data : Lanes) :
    Statement (.upstreamRequest tag kind addr size data) := every _
theorem responseDelivered : Statement .responseDelivered := every _
theorem arbiterGrant : Statement .arbiterGrant := every _
theorem downstreamRequestTaken : Statement .downstreamRequestTaken := every _
theorem downstreamResponse (tag : DTag) (status : MemStatus) (data : Lanes) :
    Statement (.downstreamResponse tag status data) := every _
theorem tick : Statement .tick := every _
theorem limit : Statement .limit := every _
theorem zero : Statement .zero := every _
theorem peak : Statement .peak := every _
theorem markUp : Statement .markUp := every _
theorem markDown : Statement .markDown := every _
theorem stallTimeout : Statement .stallTimeout := every _
theorem syncArrival : Statement .syncArrival := every _
theorem hldNAsserted : Statement .hldNAsserted := every _
theorem hldNDeasserted : Statement .hldNDeasserted := every _
theorem filterComplete : Statement .filterComplete := every _
theorem hardwareReset : Statement .hardwareReset := every _
theorem resetEnd : Statement .resetEnd := every _
theorem csNRise : Statement .csNRise := every _
theorem nakFrame (bad : BadRequest) : Statement (.nakFrame bad) := every _
theorem regRead (reg : Byte) : Statement (.regRead reg) := every _
theorem regWrite (reg : Byte) (value : BitVec 32) : Statement (.regWrite reg value) := every _
theorem writeTimerMode (value : BitVec 32) : Statement (.writeTimerMode value) := every _
theorem writePrescale (value : BitVec 32) : Statement (.writePrescale value) := every _
theorem writePeriodLimit (value : BitVec 32) : Statement (.writePeriodLimit value) := every _
theorem writeMark (value : BitVec 32) : Statement (.writeMark value) := every _
theorem writeSyncMode (value : BitVec 32) : Statement (.writeSyncMode value) := every _
theorem writeHoldFilter (value : BitVec 32) : Statement (.writeHoldFilter value) := every _
theorem writeStallLimit (value : BitVec 32) : Statement (.writeStallLimit value) := every _
theorem writeLogKinds (value : BitVec 32) : Statement (.writeLogKinds value) := every _
theorem writeLogWatermark (value : BitVec 32) : Statement (.writeLogWatermark value) := every _
theorem writeEventEnable (value : BitVec 32) : Statement (.writeEventEnable value) := every _
theorem recordReadRegion (index : Byte) : Statement (.recordReadRegion index) := every _
theorem recordWriteRegion (index : Byte) (fields : RegionFields) :
    Statement (.recordWriteRegion index fields) := every _
theorem recordReadGroup (index : Byte) : Statement (.recordReadGroup index) := every _
theorem recordWriteGroup (index : Byte) (fields : GroupFields) :
    Statement (.recordWriteGroup index fields) := every _
theorem recordReadWatch (index : Byte) : Statement (.recordReadWatch index) := every _
theorem recordWriteWatch (index : Byte) (fields : WatchFields) :
    Statement (.recordWriteWatch index fields) := every _
theorem timerStart (arg : Byte) : Statement (.timerStart arg) := every _
theorem timerStop (arg : Byte) : Statement (.timerStop arg) := every _
theorem timerRestart (arg : Byte) : Statement (.timerRestart arg) := every _
theorem publish (mask : Byte) : Statement (.publish mask) := every _
theorem discard (mask : Byte) : Statement (.discard mask) := every _
theorem regionEnable (index : Byte) : Statement (.regionEnable index) := every _
theorem regionRetire (index : Byte) : Statement (.regionRetire index) := every _
theorem holdSet (arg : Byte) : Statement (.holdSet arg) := every _
theorem holdRelease (arg : Byte) : Statement (.holdRelease arg) := every _
theorem logClear (arg : Byte) : Statement (.logClear arg) := every _
theorem eventAck (mask : BitVec 16) : Statement (.eventAck mask) := every _
theorem countersClear (arg : Byte) : Statement (.countersClear arg) := every _
theorem datapathReset (arg : Byte) : Statement (.datapathReset arg) := every _
theorem quiesceEnd : Statement .quiesceEnd := every _
theorem logPop : Statement .logPop := every _
theorem logPeek : Statement .logPeek := every _
theorem probe (addr : Addr) : Statement (.probe addr) := every _
theorem status : Statement .status := every _
theorem csNFall : Statement .csNFall := every _
theorem sclkByte (mosi : Byte) : Statement (.sclkByte mosi) := every _

end Sys2Proof.Laws.FrameBytes
end

