-- ==== Sys2Proof/Laws/PortFree.lean ====
section
/-! SUPPORT. No block reads the management port: each shared operation does the same whatever stands in the port, and
leaves the port as it is. So a frame is taken alike whatever bytes its clocking has left in the receiver. -/

namespace Sys2Proof.Machine

/-- The state with another port. -/
def State.withPort (s : State) (p : Port) : State := { s with port := p }

theorem withPort_self (s : State) : s.withPort s.port = s := rfl

theorem foldl_withPort {α : Type} {f : State → α → State} {p : Port}
    (h : ∀ s x, f (s.withPort p) x = (f s x).withPort p) (l : List α) (s : State) :
    l.foldl f (s.withPort p) = (l.foldl f s).withPort p := by
  induction l generalizing s with
  | nil => rfl
  | cons x l ih => rw [List.foldl_cons, List.foldl_cons, h, ih]

theorem ite_withPort (c : Prop) [Decidable c] (s t : State) (p : Port) :
    (if c then s else t).withPort p = if c then s.withPort p else t.withPort p := by split <;> rfl

variable (p : Port)

theorem logRecord_withPort (s : State) (i : Fin 4) (ts : Stamp) (b : LogBody) :
    (s.withPort p).logRecord i ts b = (s.logRecord i ts b).withPort p := by
  simp only [State.logRecord, ite_withPort]
  rfl

theorem offer_withPort (s : State) (g : GroupId) (a : Addr) (z : Size) (d : Lanes) :
    (s.withPort p).offer g a z d = (s.offer g a z d).map fun t => t.withPort p := by
  simp only [State.offer]
  rw [show (s.withPort p).findEntry g .opened (doubleword a) = s.findEntry g .opened (doubleword a) from rfl,
    show (s.withPort p).poolUsed = s.poolUsed from rfl, show (s.withPort p).openCount g = s.openCount g from rfl,
    show (s.withPort p).groups = s.groups from rfl]
  cases (s.findEntry g .opened (doubleword a)).isSome
  · by_cases h : s.poolUsed < 64 ∧ s.openCount g < s.groups[g].quota
    · simp only [Bool.false_eq_true, if_false, if_pos h]
      rfl
    · simp only [Bool.false_eq_true, if_false, if_neg h]
      rfl
  · rfl

theorem refuseStalled_withPort (s : State) : (s.withPort p).refuseStalled = s.refuseStalled.withPort p := by
  simp only [State.refuseStalled, show (s.withPort p).stall = s.stall from rfl]
  split <;> rfl

theorem judge_withPort (s : State) : (s.withPort p).judge = (s.judge.1.withPort p, s.judge.2) := by
  unfold State.judge
  rw [show (s.withPort p).stall = s.stall from rfl]
  split
  · rfl
  · simp only [show (s.withPort p).regions = s.regions from rfl, offer_withPort]
    rename_i w _
    cases s.regions[w.region].state <;> simp only
    · rfl
    · cases s.offer s.regions[w.region].group w.addr w.size w.data <;> rfl
    · cases s.offer s.regions[w.region].group w.addr w.size w.data <;> rfl
    · rfl

theorem startDrain_withPort (s : State) : (s.withPort p).startDrain = s.startDrain.withPort p := by
  unfold State.startDrain
  rw [show (s.withPort p).ready = s.ready from rfl]
  split
  · rfl
  · rename_i g l _
    rw [show (s.withPort p).quiescing = s.quiescing from rfl, show (s.withPort p).phase g = s.phase g from rfl]
    split <;> rfl

theorem becomeReady_withPort (s : State) (g : GroupId) :
    (s.withPort p).becomeReady g = (s.becomeReady g).withPort p :=
  let t := s.modSlot g fun sl => { sl with phase := .ready }
  startDrain_withPort p { t with ready := t.ready ++ [g] }

theorem takeFence_withPort (s : State) (g : GroupId) (n : Nat) :
    (s.withPort p).takeFence g n = (s.takeFence g n).withPort p := by
  simp only [State.takeFence]
  split <;> rfl

theorem sealGroup_withPort (s : State) (g : GroupId) (c : SealCause) (ts : Stamp) :
    (s.withPort p).sealGroup g c ts = (s.sealGroup g c ts).withPort p := by
  have h : (((s.withPort p).takeSeal g c).takeFence g (s.openCount g)).reportSeal g ts
      (.sealed s.groups[g].openGen (s.openCount g) c ((s.takeSeal g c).fenceCount g (s.openCount g))) =
      (((s.takeSeal g c).takeFence g (s.openCount g)).reportSeal g ts
        (.sealed s.groups[g].openGen (s.openCount g) c ((s.takeSeal g c).fenceCount g (s.openCount g)))).withPort p := by
    rw [show (s.withPort p).takeSeal g c = (s.takeSeal g c).withPort p from rfl, takeFence_withPort]
    exact logRecord_withPort p (((s.takeSeal g c).takeFence g (s.openCount g)).bump (.seals g) 1) _ _ _
  unfold State.sealGroup
  simp only [show (s.withPort p).openCount g = s.openCount g from rfl, show (s.withPort p).groups = s.groups from rfl,
    show ((s.withPort p).takeSeal g c).fenceCount g (s.openCount g) = (s.takeSeal g c).fenceCount g (s.openCount g)
      from rfl]
  rw [h]
  split
  · exact becomeReady_withPort p _ g
  · rfl

theorem reportDone_withPort (s : State) (g : GroupId) (sl : SealedSlot) (a : Bool) :
    (s.withPort p).reportDone g sl a = (s.reportDone g sl a).withPort p := by
  unfold State.reportDone
  rw [show (s.withPort p).now = s.now from rfl, logRecord_withPort]
  rfl

theorem finish_withPort (s : State) (g : GroupId) : (s.withPort p).finish g = (s.finish g).withPort p := by
  unfold State.finish
  rw [show (s.withPort p).groups = s.groups from rfl]
  split
  · rfl
  · rw [reportDone_withPort]
    rfl

theorem pressureRequest_withPort (s : State) (g : GroupId) :
    (s.withPort p).pressureRequest g = (s.pressureRequest g).withPort p := by
  unfold State.pressureRequest
  rw [show (s.withPort p).canSeal g = s.canSeal g from rfl, show (s.withPort p).now = s.now from rfl,
    sealGroup_withPort, judge_withPort]
  split <;> rfl

theorem retry_withPort (s : State) : (s.withPort p).retry = s.retry.withPort p := by
  unfold State.retry
  rw [judge_withPort]
  generalize s.judge = q
  obtain ⟨t, _ | g⟩ := q
  · rfl
  · exact pressureRequest_withPort p t g

theorem completeEmpty_withPort (s : State) (g : GroupId) {f : State → State}
    (h : ∀ u : State, f (u.withPort p) = (f u).withPort p) :
    (s.withPort p).completeEmpty g f = (s.completeEmpty g f).withPort p := by
  unfold State.completeEmpty
  rw [finish_withPort, h, startDrain_withPort]

theorem sealLast_withPort (s : State) (g : GroupId) (c : SealCause) (ts : Stamp) :
    (s.withPort p).sealLast g c ts = (s.sealLast g c ts).withPort p := by
  unfold State.sealLast
  simp only [show (s.withPort p).openCount g = s.openCount g from rfl, sealGroup_withPort]
  rw [completeEmpty_withPort p _ g (fun _ => rfl)]
  split <;> exact retry_withPort p _

theorem offerPendingLast_withPort (s : State) (g : GroupId) :
    (s.withPort p).offerPendingLast g = (s.offerPendingLast g).withPort p := by
  unfold State.offerPendingLast
  rw [sealLast_withPort, show (s.withPort p).groups = s.groups from rfl,
    show (s.withPort p).canSeal g = s.canSeal g from rfl, show (s.withPort p).now = s.now from rfl]
  split <;> rfl

theorem sealFull_withPort (s : State) (g : GroupId) (c : SealCause) (ts : Stamp) :
    (s.withPort p).sealFull g c ts = (s.sealFull g c ts).withPort p := by
  unfold State.sealFull
  simp only [show (s.withPort p).openCount g = s.openCount g from rfl, sealGroup_withPort]
  rw [completeEmpty_withPort p _ g (fun u => offerPendingLast_withPort p u g)]
  split <;> exact retry_withPort p _

theorem offerPending_withPort (s : State) (g : GroupId) :
    (s.withPort p).offerPending g = (s.offerPending g).withPort p := by
  unfold State.offerPending
  rw [sealFull_withPort, show (s.withPort p).groups = s.groups from rfl,
    show (s.withPort p).canSeal g = s.canSeal g from rfl, show (s.withPort p).now = s.now from rfl]
  split <;> rfl

theorem complete_withPort (s : State) (g : GroupId) : (s.withPort p).complete g = (s.complete g).withPort p := by
  unfold State.complete
  simp only [finish_withPort, show (s.withPort p).retiring g = s.retiring g from rfl]
  split
  · rw [retry_withPort, offerPending_withPort, startDrain_withPort]
  · rw [offerPending_withPort, startDrain_withPort]

theorem retireRequest_withPort (s : State) (g : GroupId) :
    (s.withPort p).retireRequest g = (s.retireRequest g).withPort p := by
  unfold State.retireRequest
  rw [sealFull_withPort, show (s.withPort p).groups = s.groups from rfl, show (s.withPort p).held = s.held from rfl,
    show (s.withPort p).quiescing = s.quiescing from rfl, show (s.withPort p).now = s.now from rfl]
  split
  · rfl
  · split <;> rfl

theorem refuseStalledOfDiscard_withPort (s : State) :
    (s.withPort p).refuseStalledOfDiscard = s.refuseStalledOfDiscard.withPort p := by
  unfold State.refuseStalledOfDiscard
  rw [refuseStalled_withPort, show (s.withPort p).stall = s.stall from rfl]
  split
  · rfl
  · simp only [show (s.withPort p).regions = s.regions from rfl, show (s.withPort p).groups = s.groups from rfl]
    split <;> rfl

theorem enterHeld_withPort (s : State) (c : HoldCause) : (s.withPort p).enterHeld c = (s.enterHeld c).withPort p := by
  unfold State.enterHeld
  simp only [show ∀ h : Hold, ({ s.withPort p with hold := h } : State) = ({ s with hold := h } : State).withPort p
      from fun _ => rfl,
    show ∀ u : State, (u.withPort p).raise .holdOn = (u.raise .holdOn).withPort p from fun _ => rfl,
    refuseStalledOfDiscard_withPort,
    show ∀ u : State, (u.withPort p).discardGroups = u.discardGroups from fun _ => rfl,
    foldl_withPort (f := State.discardOpen) (fun _ _ => rfl), retry_withPort,
    show ∀ u : State, (u.withPort p).now = u.now from fun _ => rfl, logRecord_withPort,
    show ∀ u : State, (u.withPort p).poolUsed = u.poolUsed from fun _ => rfl,
    show (s.withPort p).hold = s.hold from rfl]

theorem release_withPort (s : State) : (s.withPort p).release = s.release.withPort p := by
  let u := State.logRecord { s with hold := { s.hold with state := .clear } } 0 s.now (.holdOff s.hold.suppressed)
  have h : State.logRecord (State.withPort { s with hold := { s.hold with state := .clear } } p) 0 s.now
      (.holdOff s.hold.suppressed) = u.withPort p := logRecord_withPort p _ _ _ _
  exact (congrArg (fun v : State => (arrange v.draws v.pendingGroups).foldl State.offerPending
    (v.drew v.pendingGroups.length)) h).trans (foldl_withPort (offerPending_withPort p)
      (arrange u.draws u.pendingGroups) (u.drew u.pendingGroups.length))

theorem manualRequest_withPort (l : List GroupId) (s : State) (m : Byte) :
    l.foldl manualRequest (s.withPort p, m) =
      ((l.foldl manualRequest (s, m)).1.withPort p, (l.foldl manualRequest (s, m)).2) := by
  induction l generalizing s m with
  | nil => rfl
  | cons g l ih =>
    have h : manualRequest (s.withPort p, m) g = ((manualRequest (s, m) g).1.withPort p, (manualRequest (s, m) g).2) := by
      simp only [manualRequest, sealFull_withPort, show (s.withPort p).canSeal g = s.canSeal g from rfl,
        show (s.withPort p).now = s.now from rfl]
      split <;> rfl
    rw [List.foldl_cons, List.foldl_cons, h, ih]

theorem abandon_withPort (s : State) (g : GroupId) : (s.withPort p).abandon g = (s.abandon g).withPort p := by
  unfold State.abandon
  rw [show (s.withPort p).groups = s.groups from rfl]
  split
  · rfl
  · exact reportDone_withPort p _ _ _ _

theorem endQuiesce_withPort (s : State) : (s.withPort p).endQuiesce = s.endQuiesce.withPort p := rfl

theorem lastStep_withPort (s : State) : (s.withPort p).lastStep = s.lastStep.withPort p := by
  have h : allGroups.foldl State.abandon { allGroups.foldl State.discardOpen (s.withPort p) with pool := [] } =
      (allGroups.foldl State.abandon { allGroups.foldl State.discardOpen s with pool := [] }).withPort p := by
    rw [foldl_withPort (f := State.discardOpen) (p := p) (fun _ _ => rfl)]
    exact foldl_withPort (abandon_withPort p) allGroups { allGroups.foldl State.discardOpen s with pool := [] }
  unfold State.lastStep
  rw [h]
  exact endQuiesce_withPort p _

theorem retryIf_withPort (c : Prop) [Decidable c] (s : State) :
    (if c then (s.withPort p).retry else s.withPort p) = (if c then s.retry else s).withPort p := by
  rw [retry_withPort, ite_withPort]

/-- A frame taken with another port gives the same outcome, but for the port. -/
theorem hand_withPort (s : State) (f : Frame) :
    (s.withPort p).hand f =
      { state := (s.hand f).state.withPort p, status := (s.hand f).status, payload := (s.hand f).payload } := by
  cases f with
  | nak b => rfl
  | regRead n =>
    simp only [State.hand, State.takeRegRead, show (s.withPort p).register n = s.register n from rfl]
    cases s.register n <;> rfl
  | regWrite n v =>
    simp only [State.hand, State.takeRegWrite]
    split
    · simp only [State.writeTimerMode, show (s.withPort p).timebase = s.timebase from rfl]
      split
      · rfl
      · split <;> rfl
    · simp only [State.writePrescale]
      split <;> rfl
    · simp only [State.writePeriodLimit]
      split <;> rfl
    · simp only [State.writeMark]
      split <;> rfl
    · simp only [State.writeSyncMode]
      split <;> rfl
    · simp only [State.writeHoldFilter]
      split <;> rfl
    · simp only [State.writeStallLimit]
      split <;> rfl
    · simp only [State.writeLogKinds]
      split <;> rfl
    · simp only [State.writeLogWatermark]
      split <;> rfl
    · simp only [State.writeEventEnable]
      split <;> rfl
    · rfl
  | readRegion i =>
    simp only [State.hand, State.takeReadRegion]
    split <;> rfl
  | writeRegion i f =>
    simp only [State.hand, State.takeWriteRegion, show (s.withPort p).regions = s.regions from rfl]
    split
    · split
      · rfl
      · split <;> rfl
    · rfl
  | readGroup i =>
    simp only [State.hand, State.takeReadGroup]
    split <;> rfl
  | writeGroup i f =>
    simp only [State.hand, State.takeWriteGroup, show (s.withPort p).groups = s.groups from rfl,
      show (s.withPort p).held = s.held from rfl, show ∀ g, (s.withPort p).openCount g = s.openCount g from fun _ => rfl,
      show ∀ g f, (s.withPort p).modGroup g f = (s.modGroup g f).withPort p from fun _ _ => rfl, retryIf_withPort]
    by_cases h : i.toNat < 4
    · simp only [dif_pos h]
      generalize GroupFields.decode f s.groups[(⟨i.toNat, h⟩ : GroupId)] = q
      cases q with
      | none => rfl
      | some r =>
        dsimp only
        split
        · rfl
        · split <;> rfl
    · simp only [dif_neg h]
      rfl
  | readWatch i =>
    simp only [State.hand, State.takeReadWatch]
    split <;> rfl
  | writeWatch i f =>
    simp only [State.hand, State.takeWriteWatch]
    split
    · split <;> rfl
    · rfl
  | timerStart _ =>
    simp only [State.hand, State.takeTimerStart, show (s.withPort p).timebase = s.timebase from rfl]
    split <;> rfl
  | timerStop _ => rfl
  | timerRestart _ =>
    simp only [State.hand, State.takeTimerRestart, show (s.withPort p).timebase = s.timebase from rfl]
    split <;> rfl
  | publish m =>
    simp only [State.hand, State.takePublish, show (s.withPort p).quiescing = s.quiescing from rfl,
      show (s.withPort p).draws = s.draws from rfl,
      show ∀ n, (s.withPort p).drew n = (s.drew n).withPort p from fun _ => rfl, manualRequest_withPort]
    split
    · rfl
    · split <;> rfl
  | discard m =>
    simp only [State.hand, State.takeDiscard, show (s.withPort p).quiescing = s.quiescing from rfl,
      foldl_withPort (f := State.discardOpen) (p := p) (fun _ _ => rfl),
      show ∀ u : State, (u.withPort p).poolUsed = u.poolUsed from fun _ => rfl, retryIf_withPort]
    split
    · rfl
    · split <;> rfl
  | regionEnable i =>
    simp only [State.hand, State.takeRegionEnable, show (s.withPort p).quiescing = s.quiescing from rfl,
      show (s.withPort p).regions = s.regions from rfl]
    split
    · split
      · rfl
      · split
        · rfl
        · split <;> rfl
    · rfl
  | regionRetire i =>
    simp only [State.hand, State.takeRegionRetire, show (s.withPort p).quiescing = s.quiescing from rfl,
      show (s.withPort p).regions = s.regions from rfl, show (s.withPort p).held = s.held from rfl,
      show ∀ r f, (s.withPort p).modRegion r f = (s.modRegion r f).withPort p from fun _ _ => rfl,
      retireRequest_withPort]
    split
    · split
      · rfl
      · split
        · rfl
        · split <;> rfl
    · rfl
  | holdSet _ =>
    simp only [State.hand, State.takeHoldSet, show (s.withPort p).held = s.held from rfl, enterHeld_withPort]
    split <;> rfl
  | holdRelease _ =>
    simp only [State.hand, State.takeHoldRelease, show (s.withPort p).hold = s.hold from rfl,
      show (s.withPort p).hldLow = s.hldLow from rfl, release_withPort]
    split
    · rfl
    · rfl
    · split <;> rfl
  | logClear _ => rfl
  | eventAck _ => rfl
  | countersClear _ => rfl
  | datapathReset _ =>
    simp only [State.hand, State.takeDatapathReset, show (s.withPort p).quiescing = s.quiescing from rfl]
    rw [show ({ s.withPort p with quiescing := true } : State) = ({ s with quiescing := true } : State).withPort p
      from rfl]
    simp only [refuseStalled_withPort, show ∀ u : State, (u.withPort p).pathEmpty = u.pathEmpty from fun _ => rfl,
      lastStep_withPort, ← ite_withPort]
    split <;> rfl
  | logPop =>
    simp only [State.hand, State.takeLogPop, show (s.withPort p).log = s.log from rfl]
    split <;> rfl
  | logPeek =>
    simp only [State.hand, State.takeLogPeek, show (s.withPort p).log = s.log from rfl]
    split <;> rfl
  | probe a => rfl
  | status => rfl

/-- A frame is taken alike, with the same reply, whatever stands in the port. -/
theorem takeFrame_withPort (s : State) (f : Frame) : (s.withPort p).takeFrame f = s.takeFrame f := by
  unfold State.takeFrame
  rw [hand_withPort]
  rfl

end Sys2Proof.Machine
end

