-- ==== Sys2Proof/Laws/Ports.lean ====
section
/-! SUPPORT. The memory ports: what the routing of a request leaves of the watches, and UPSTREAM_REQUEST as its
routing when no watch is selected. -/

namespace Sys2Proof.Machine

/-- The selection of a watch reads the watches alone. -/
theorem selectWatch_congr {s t : State} (h : t.watches = s.watches) (k : ReqKind) (a : Addr) :
    t.selectWatch k a = s.selectWatch k a := by simp [State.selectWatch, h]

/-- With no watch selected, judging a request does nothing. -/
theorem watchRequest_none {s : State} {k : ReqKind} {a : Addr} (h : s.selectWatch k a = none) (tag : UTag)
    (z : Size) (p : Path) : s.watchRequest tag k a z p = s := by simp [State.watchRequest, h]

theorem refuseWrite_watches (s : State) (t : UTag) : (s.refuseWrite t).watches = s.watches := rfl

/-- The route of a write leaves the watches alone. -/
theorem routeWrite_watches (s : State) (tag : UTag) (a : Addr) (z : Size) (d : Lanes) (r : RegionId) :
    (s.routeWrite tag a z d r).state.watches = s.watches := by
  unfold State.routeWrite
  simp only
  split
  · rfl
  · split
    · rfl
    · rfl
    all_goals
      split
      · rename_i t h
        exact (quiet_offer h).watches
      · split <;> rfl

/-- The route of a request leaves the watches alone. -/
theorem route_watches (s : State) (tag : UTag) (k : ReqKind) (a : Addr) (z : Size) (d : Lanes) :
    (s.route tag k a z d).state.watches = s.watches := by
  unfold State.route
  split
  · rfl
  · simp only
    split
    · rfl
    · split
      · rfl
      · split
        · exact routeWrite_watches _ _ _ _ _ _
        · unfold State.routeRead
          simp only
          split <;> rfl

/-- A taken request that selects no watch and makes no PRESSURE request leaves what its route leaves (R134, R137). -/
theorem execUpstreamRequest_route {s t : State} {tag : UTag} {k : ReqKind} {a : Addr} {z : Size} {d : Lanes} {p : Path}
    (hr : s.uReady = true) (hw : s.selectWatch k a = none)
    (hq : ({ s with places := s.places + 1 } : State).route tag k a z d = ⟨t, p, none⟩) :
    execUpstreamRequest tag k a z d s = .next t := by
  have ht : t.watches = s.watches := by
    have h := route_watches { s with places := s.places + 1 } tag k a z d
    rw [hq] at h
    exact h
  unfold execUpstreamRequest
  rw [if_pos hr]
  simp only [hq]
  rw [watchRequest_none ((selectWatch_congr ht k a).trans hw)]

/-- A request presented while the channel is not ready waits (R134). -/
theorem execUpstreamRequest_waits {s : State} (tag : UTag) (k : ReqKind) (a : Addr) (z : Size) (d : Lanes)
    (hr : s.uReady = false) : execUpstreamRequest tag k a z d s = .next s := by
  simp [execUpstreamRequest, hr]

/-- When the U-port request channel is ready (R134). -/
theorem uReady_iff (s : State) :
    s.uReady = true ↔ s.inReset = false ∧ s.stall = none ∧ s.quiescing = false ∧ s.places < 32 := by
  simp [State.uReady, and_assoc]

/-! ### Routing, case by case (Table 8-2) -/

/-- The state after a request's place and tag are taken. -/
def State.accepted (s : State) (tag : UTag) : State :=
  { s with places := s.places + 1, inFlight := s.inFlight.set tag true }

/-- A request that passes the checks and matches no active region joins the forward queue (R6, R140). -/
theorem route_pass {s : State} {tag : UTag} {k : ReqKind} {a : Addr} {z : Size} {d : Lanes}
    (hf : s.inFlight[tag] = false) (ha : aligned a z = true) (hl : s.lookup a = none) :
    ({ s with places := s.places + 1 } : State).route tag k a z d =
      ⟨(s.accepted tag).enqueue tag k a z d, .pass, none⟩ := by
  have hl' : (s.accepted tag).lookup a = none := hl
  unfold State.route
  rw [if_neg (by rw [hf]; exact Bool.false_ne_true)]
  simp only [ha, Bool.not_true, Bool.false_eq_true, if_false]
  exact (by rw [hl'] : (match (s.accepted tag).lookup a with
    | none => _
    | some r => _) = _)

/-- A write that passes the checks is routed by its region. -/
theorem route_write {s : State} {tag : UTag} {a : Addr} {z : Size} {d : Lanes} {r : RegionId}
    (hf : s.inFlight[tag] = false) (ha : aligned a z = true) (hl : s.lookup a = some r) :
    ({ s with places := s.places + 1 } : State).route tag .write a z d = (s.accepted tag).routeWrite tag a z d r := by
  have hl' : (s.accepted tag).lookup a = some r := hl
  unfold State.route
  rw [if_neg (by rw [hf]; exact Bool.false_ne_true)]
  simp only [ha, Bool.not_true, Bool.false_eq_true, if_false]
  exact (by rw [hl'] : (match (s.accepted tag).lookup a with
    | none => _
    | some r => _) = _)

/-- A read that passes the checks is routed by its region. -/
theorem route_read {s : State} {tag : UTag} {a : Addr} {z : Size} {d : Lanes} {r : RegionId}
    (hf : s.inFlight[tag] = false) (ha : aligned a z = true) (hl : s.lookup a = some r) :
    ({ s with places := s.places + 1 } : State).route tag .read a z d = (s.accepted tag).routeRead tag a z r := by
  have hl' : (s.accepted tag).lookup a = some r := hl
  unfold State.route
  rw [if_neg (by rw [hf]; exact Bool.false_ne_true)]
  simp only [ha, Bool.not_true, Bool.false_eq_true, if_false]
  exact (by rw [hl'] : (match (s.accepted tag).lookup a with
    | none => _
    | some r => _) = _)

/-- Whether a write of the group is refused under a hold (R128). -/
def State.refusedByHold (s : State) (g : GroupId) : Bool := s.held && s.groups[g].holdPolicy == .discard

theorem routeWrite_held {s : State} {tag : UTag} {a : Addr} {z : Size} {d : Lanes} {r : RegionId}
    (h : s.refusedByHold s.regions[r].group = true) :
    s.routeWrite tag a z d r = ⟨s.refuseWrite tag, .refused, none⟩ := by
  unfold State.routeWrite
  exact if_pos h

theorem routeWrite_retireDrain {s : State} {tag : UTag} {a : Addr} {z : Size} {d : Lanes} {r : RegionId}
    (h : s.refusedByHold s.regions[r].group = false) (hs : s.regions[r].state = .retireDrain) :
    s.routeWrite tag a z d r = ⟨s.enterStall tag a z d r .retireDrain, .stalled, none⟩ := by
  unfold State.routeWrite
  simp only
  rw [if_neg (by unfold State.refusedByHold at h; rw [h]; exact Bool.false_ne_true), hs]

theorem routeWrite_staged {s t : State} {tag : UTag} {a : Addr} {z : Size} {d : Lanes} {r : RegionId}
    (h : s.refusedByHold s.regions[r].group = false)
    (hs : s.regions[r].state = .staging ∨ s.regions[r].state = .retireWait)
    (ho : s.offer s.regions[r].group a z d = some t) :
    s.routeWrite tag a z d r = ⟨t.respond tag .ok none, .staged, none⟩ := by
  unfold State.routeWrite
  simp only
  rw [if_neg (by unfold State.refusedByHold at h; rw [h]; exact Bool.false_ne_true)]
  rcases hs with hs | hs <;> rw [hs, ho]

theorem routeWrite_failed {s : State} {tag : UTag} {a : Addr} {z : Size} {d : Lanes} {r : RegionId}
    (h : s.refusedByHold s.regions[r].group = false)
    (hs : s.regions[r].state = .staging ∨ s.regions[r].state = .retireWait)
    (ho : s.offer s.regions[r].group a z d = none) :
    s.routeWrite tag a z d r =
      let p := if s.wantsPressure s.regions[r].group then some s.regions[r].group else none
      match s.regions[r].policy with
      | .stall => ⟨s.enterStall tag a z d r .noEntry, .stalled, p⟩
      | .reject => ⟨s.refuseWrite tag, .refused, p⟩ := by
  unfold State.routeWrite
  simp only
  rw [if_neg (by unfold State.refusedByHold at h; rw [h]; exact Bool.false_ne_true)]
  rcases hs with hs | hs <;> rw [hs, ho] <;> cases s.regions[r].policy <;> rfl

theorem routeRead_local {s : State} {tag : UTag} {a : Addr} {z : Size} {r : RegionId}
    (h : (s.snapshot s.regions[r] a z).1 = laneMask a z) :
    s.routeRead tag a z r = ⟨s.respond tag .ok (some (s.snapshot s.regions[r] a z).2), .localRead, none⟩ := by
  unfold State.routeRead
  exact if_pos h

theorem routeRead_forwarded {s : State} {tag : UTag} {a : Addr} {z : Size} {r : RegionId}
    (h : (s.snapshot s.regions[r] a z).1 ≠ laneMask a z) :
    s.routeRead tag a z r =
      ⟨State.enqueue { s with tracker := s.tracker.set tag (some
          { addr := doubleword a, lanes := laneMask a z, snapMask := (s.snapshot s.regions[r] a z).1,
            snapData := (s.snapshot s.regions[r] a z).2, mark := none }) } tag .read a z Lanes.zero,
        .forwarded, none⟩ := by
  unfold State.routeRead
  exact if_neg h

end Sys2Proof.Machine
end

