-- ==== Sys2Proof/Laws/Retry.lean ====
section
/-! SUPPORT. What a retry of the stall slot does, case by case (R10, R33). -/

namespace Sys2Proof.Machine

/-! ### One judgement -/

/-- The region is OFF: the write is forwarded (R10). -/
theorem judge_off {s : State} {w : StalledWrite} (hw : s.stall = some w) (hr : s.regions[w.region].state = .off) :
    s.judge = (s.forwardStalled w, none) := by
  unfold State.judge
  rw [hw]
  dsimp only
  rw [hr]

/-- The region is in RETIRE_DRAIN: the write waits, with that cause (R10). -/
theorem judge_retireDrain {s : State} {w : StalledWrite} (hw : s.stall = some w)
    (hr : s.regions[w.region].state = .retireDrain) :
    s.judge = ({ s with stall := some { w with cause := .retireDrain } }, none) := by
  unfold State.judge
  rw [hw]
  dsimp only
  rw [hr]

/-- The region stages and the pool takes the write: it is answered OK (R10, R24). -/
theorem judge_placed {s t : State} {w : StalledWrite} (hw : s.stall = some w)
    (hr : s.regions[w.region].state = .staging ∨ s.regions[w.region].state = .retireWait)
    (ho : s.offer s.regions[w.region].group w.addr w.size w.data = some t) :
    s.judge = (({ t with stall := none }).respond w.tag .ok none, none) := by
  unfold State.judge
  rw [hw]
  dsimp only
  rcases hr with hr | hr <;> rw [hr] <;> simp only [ho]

/-- The region stages and the pool does not take the write: it waits, and may make a PRESSURE request (R29). -/
theorem judge_failed {s : State} {w : StalledWrite} (hw : s.stall = some w)
    (hr : s.regions[w.region].state = .staging ∨ s.regions[w.region].state = .retireWait)
    (ho : s.offer s.regions[w.region].group w.addr w.size w.data = none) :
    s.judge = (s, if s.wantsPressure s.regions[w.region].group then some s.regions[w.region].group else none) := by
  unfold State.judge
  rw [hw]
  dsimp only
  rcases hr with hr | hr <;> rw [hr] <;> simp only [ho]

/-- An offer keeps the group records. -/
theorem offer_groups {s t : State} {g : GroupId} {a : Addr} {z : Size} {d : Lanes} (h : s.offer g a z d = some t) :
    t.groups = s.groups := by
  unfold State.offer at h
  simp only at h
  split at h
  · cases h; rfl
  · split at h
    · cases h; rfl
    · cases h

/-- A judgement keeps the group records. -/
theorem judge_groups (s : State) : s.judge.1.groups = s.groups := by
  unfold State.judge
  split
  · rfl
  · dsimp only
    split
    · rfl
    · rfl
    all_goals
      split
      · rename_i h
        exact (offer_groups h :)
      · rfl

/-! ### Retries -/

theorem retry_of_judge {s t : State} (h : s.judge = (t, none)) : s.retry = t := by
  unfold State.retry
  rw [h]

/-- A retry whose judgement fails makes the PRESSURE request of its group, or none (R29, R33). -/
theorem retry_failed {s : State} {w : StalledWrite} (hw : s.stall = some w)
    (hr : s.regions[w.region].state = .staging ∨ s.regions[w.region].state = .retireWait)
    (ho : s.offer s.regions[w.region].group w.addr w.size w.data = none) :
    s.retry = if s.wantsPressure s.regions[w.region].group then s.pressureRequest s.regions[w.region].group else s := by
  unfold State.retry
  rw [judge_failed hw hr ho]
  by_cases h : s.wantsPressure s.regions[w.region].group = true
  · rw [if_pos h, if_pos h]
  · rw [if_neg h, if_neg h]

/-- The seal of a PRESSURE request leaves the stalled write's group with no OPEN entry, and judges the write again. -/
theorem retry_pressure {s : State} {w : StalledWrite} {g : GroupId} (hw : s.stall = some w)
    (hg : s.regions[w.region].group = g)
    (hr : s.regions[w.region].state = .staging ∨ s.regions[w.region].state = .retireWait)
    (hf : s.findEntry g .opened (doubleword w.addr) = none)
    (hfull : 64 ≤ s.pool.length ∨ s.groups[g].quota ≤ s.openCount g) (hp : s.groups[g].pressureSeal = true)
    (hn : 0 < s.openCount g) (hh : s.hold.state ≠ .held) (hq : s.quiescing = false)
    (hs : s.groups[g].slot = none) : s.retry = (s.sealGroup g .pressure s.now).judge.1 := by
  subst hg
  rw [retry_failed hw hr (offer_fails _ _ hf hfull), if_pos]
  · unfold State.pressureRequest
    rw [if_pos]
    unfold State.canSeal State.held
    rw [hs, hq]
    simpa using hh
  · unfold State.wantsPressure
    rw [hp, decide_eq_true hn]
    rfl

/-- After a seal of the group no OPEN entry of it is left (R36). -/
theorem findEntry_sealGroup (s : State) (g : GroupId) (c : SealCause) (ts : Stamp) (a : Addr) :
    (s.sealGroup g c ts).findEntry g .opened a = none := by
  have h0 : (s.sealGroup g c ts).openCount g = 0 := by
    rw [openCount_sealGroup]
    simp
  unfold State.findEntry
  rw [List.find?_eq_none]
  intro e he hc
  have : 0 < (s.sealGroup g c ts).openCount g := by
    unfold State.openCount
    rw [List.countP_pos_iff]
    exact ⟨e, he, by simp_all⟩
  omega

/-- What the PRESSURE request of a failed retry leaves: the seal, and the write judged by the next generation. -/
theorem retry_pressure_leaves {s : State} {w : StalledWrite} {g : GroupId} (hw : s.stall = some w)
    (hg : s.regions[w.region].group = g)
    (hr : s.regions[w.region].state = .staging ∨ s.regions[w.region].state = .retireWait)
    (hf : s.findEntry g .opened (doubleword w.addr) = none)
    (hfull : 64 ≤ s.pool.length ∨ s.groups[g].quota ≤ s.openCount g) (hp : s.groups[g].pressureSeal = true)
    (hn : 0 < s.openCount g) (hh : s.hold.state ≠ .held) (hq : s.quiescing = false)
    (hs : s.groups[g].slot = none) :
    SealLeaves s s.retry g .pressure s.now ∧
    ∀ sealed : List Entry,
      sealed = (s.pool.map fun e =>
        if e.group = g ∧ e.role = .opened then { e with role := .sealed, issued := false } else e) →
      (s.regions[w.region].state = .staging → 64 ≤ s.pool.length →
        s.retry.stall = some w ∧ s.retry.pool = sealed ∧ s.retry.responses = s.responses) ∧
      (s.regions[w.region].state = .retireWait →
        s.retry.stall = some { w with cause := .retireDrain } ∧ s.retry.pool = sealed ∧
        s.retry.responses = s.responses) ∧
      (s.regions[w.region].state = .staging → s.pool.length < 64 → 1 ≤ s.groups[g].quota →
        s.retry.stall = none ∧
        s.retry.responses = s.responses ++ [{ tag := w.tag, status := .ok, data := none, holdsTag := true }] ∧
        s.retry.pool = sealed ++
          [{ addr := doubleword w.addr, data := maskLanes (laneMask w.addr w.size) w.data,
             mask := laneMask w.addr w.size, group := g, role := .opened, arrival := 0, issued := false }]) := by
  rw [retry_pressure hw hg hr hf hfull hp hn hh hq hs]
  have hL := sealGroup_leaves .pressure s.now hn hq
  have hE := sealGroup_eq s g .pressure s.now
  have hvs : (s.sealGroup g .pressure s.now).stall = some w := (sealGroup_stall _ _ _ _).trans hw
  have hvr := hL.regions w.region
  have hvf := findEntry_sealGroup s g .pressure s.now (doubleword w.addr)
  have hvl : (s.sealGroup g .pressure s.now).pool = s.pool.map fun e =>
      if e.group = g ∧ e.role = .opened then { e with role := .sealed, issued := false } else e := by
    rw [hE]
    exact takeSeal_pool s g .pressure
  have hvp : (s.sealGroup g .pressure s.now).pool.length = s.pool.length := by rw [hvl, List.length_map]
  have hvo : (s.sealGroup g .pressure s.now).openCount g = 0 := by rw [openCount_sealGroup]; simp
  have hvq : (s.sealGroup g .pressure s.now).groups[g].quota = s.groups[g].quota := by
    obtain ⟨f, h, -⟩ := sealGroup_group s g .pressure s.now
    rw [h]
    rfl
  have hvy : (s.sealGroup g .pressure s.now).responses = s.responses := by rw [hE]
  generalize s.sealGroup g .pressure s.now = v at hL hvs hvr hvf hvl hvp hvo hvq hvy
  clear hE
  subst hg
  rcases hr with hr | hr
  · have hvr' : v.regions[w.region] = s.regions[w.region] := by rw [hvr, hr]; simp
    have hvst : v.regions[w.region].state = .staging := by rw [hvr', hr]
    have hvg : v.regions[w.region].group = s.regions[w.region].group := by rw [hvr']
    by_cases hlen : 64 ≤ s.pool.length
    · rw [judge_failed hvs (.inl hvst) (by rw [hvg]; exact offer_fails _ _ hvf (.inl (by omega)))]
      refine ⟨hL, fun q hq => ⟨fun _ _ => ⟨hvs, hvl.trans hq.symm, hvy⟩, fun h => ?_, fun _ h => absurd h (by omega)⟩⟩
      rw [hr] at h
      cases h
    · by_cases hq1 : 1 ≤ s.groups[s.regions[w.region].group].quota
      · rw [judge_placed hvs (.inl hvst) (by
          rw [hvg]
          exact offer_allocates _ _ hvf (by omega) (by omega))]
        refine ⟨?_, fun q hq => ⟨fun _ h => absurd h hlen, fun h => ?_, fun _ _ _ => ⟨rfl, ?_, ?_⟩⟩⟩
        · exact hL.congr_right rfl rfl rfl rfl rfl rfl rfl rfl rfl rfl rfl rfl rfl
        · rw [hr] at h
          cases h
        · exact congrArg (· ++ _) hvy
        · show v.pool ++ _ = _
          rw [hvl, hq, hvo]
      · rw [judge_failed hvs (.inl hvst) (by rw [hvg]; exact offer_fails _ _ hvf (.inr (by omega)))]
        refine ⟨hL, fun q hq => ⟨fun _ h => absurd h hlen, fun h => ?_, fun _ _ h => absurd h hq1⟩⟩
        rw [hr] at h
        cases h
  · have hvst : v.regions[w.region].state = .retireDrain := by rw [hvr, hr]; simp
    rw [judge_retireDrain hvs hvst]
    refine ⟨?_, fun q hq => ⟨fun h => ?_, fun _ => ⟨rfl, hvl.trans hq.symm, hvy⟩, fun h => ?_⟩⟩
    · exact hL.congr_right rfl rfl rfl rfl rfl rfl rfl rfl rfl rfl rfl rfl rfl
    · rw [hr] at h
      cases h
    · rw [hr] at h
      cases h

/-- A retry leaves each group's sealed slot with its numbers, but for a group that it seals (R33). -/
theorem retry_slot {s : State} {g : GroupId} {sl : SealedSlot} (h : s.groups[g].slot = some sl) :
    s.groups[g].Alike s.retry.groups[g] := by
  have hj := judge_groups s
  unfold State.retry
  split
  · rename_i t e
    rw [e] at hj
    dsimp only at hj
    rw [hj]
    exact .refl _
  · rename_i t k e
    rw [e] at hj
    dsimp only at hj
    unfold State.pressureRequest
    split
    · rename_i hc
      have hk : g ≠ k := by
        rintro rfl
        unfold State.canSeal at hc
        rw [hj, h] at hc
        simp at hc
      have e1 : (t.sealGroup k .pressure t.now).judge.1.groups[g] = (t.sealGroup k .pressure t.now).groups[g] := by
        simp only [judge_groups]
      have e2 : t.groups[g] = s.groups[g] := by simp only [hj]
      rw [e1, ← e2]
      exact sealGroup_other t hk _ _
    · have e2 : t.groups[g] = s.groups[g] := by simp only [hj]
      rw [e2]
      exact .refl _

end Sys2Proof.Machine
end

