-- ==== Sys2Proof/Tests/Slice0.lean ====
section
/-! SUPPORT. The model's own tests. Every expected value comes from the spec: from the example or rule that the comment
names. One command on a small state each. The witnesses for the hypotheses of the obligations follow in the second
half. -/

namespace Sys2Proof.Tests

open Sys2Proof.Machine

/-! ### Well-formedness: each check refuses an ill-formed command -/

theorem test_wf_read_with_data :
    (Instr.upstreamRequest 0 .read 0 .b8 (Vector.replicate 8 1)).wellFormed = false ∧
    (Instr.upstreamRequest 0 .read 0 .b8 Lanes.zero).wellFormed = true ∧
    (Instr.upstreamRequest 0 .write 0 .b8 (Vector.replicate 8 1)).wellFormed = true := by decide

theorem test_wf_bad_kind :
    (Instr.nakFrame (.kind 0x11)).wellFormed = false ∧ (Instr.nakFrame (.kind 0x19)).wellFormed = false ∧
    (Instr.nakFrame (.kind 0x10)).wellFormed = true ∧ (Instr.nakFrame (.kind 0x1A)).wellFormed = true := by decide

theorem test_wf_bad_class :
    (Instr.nakFrame (.readClass 1)).wellFormed = false ∧ (Instr.nakFrame (.writeClass 3)).wellFormed = false ∧
    (Instr.nakFrame (.readClass 0)).wellFormed = true ∧ (Instr.nakFrame (.writeClass 4)).wellFormed = true := by decide

theorem test_wf_bad_action :
    (Instr.nakFrame (.actionCode 0x01)).wellFormed = false ∧ (Instr.nakFrame (.actionCode 0x0D)).wellFormed = false ∧
    (Instr.nakFrame (.actionCode 0x0E)).wellFormed = true := by decide

/-! ### Helpers -/

/-- The state a command leaves. -/
def go (c : Instr) (s : State) : State :=
  match exec c s with
  | .next t => t
  | _ => s

/-- Eight bytes counting up from n. -/
def up (n : Nat) : Lanes := Vector.ofFn fun k => BitVec.ofNat 8 (n + k.val)

/-- A region of group 0 at 0x2000_0000, 256 bytes, STAGING, COMMITTED, STALL. -/
def window : Region := { Region.reset with base := 0x20000000, state := .staging }

/-- Region 0 is `window`. -/
def staging : State := { State.reset with regions := State.reset.regions.set 0 window }

/-- An entry of group 0 for all eight lanes of a doubleword. -/
def entry (r : Role) (n : Nat) : Entry :=
  { addr := BitVec.ofNat 32 (0x20000000 + 8 * n), data := up (16 * n), mask := 0xFF, group := 0, role := r,
    arrival := n, issued := false }

/-- `staging` with group 0 changed. -/
def withGroup (s : State) (g : Group) : State := { s with groups := s.groups.set 0 g }

/-- A sealed slot of one entry. -/
def slot (p : SlotPhase) : SealedSlot :=
  { phase := p, gen := 7, entries := 1, fence := 0, written := 0, failed := 0, elapsed := 0 }

/-- Group 0 DRAINING one entry. -/
def draining : State :=
  { withGroup staging { Group.reset with slot := some (slot .draining), openGen := 8 } with
    pool := [entry .sealed 0], ready := [0] }

/-- A write waits in the stall slot. -/
def waiting : StalledWrite :=
  { tag := 9, addr := 0x20000008, size := .b8, data := up 0, region := 0, cause := .noEntry, elapsed := 0 }

/-- Group 0 full at quota 1, a write stalled. -/
def stalled : State :=
  { withGroup staging { Group.reset with quota := 1 } with pool := [entry .opened 0], stall := some waiting }

/-- The counter RUNNING in a mode with a limit of 3 and a mark of 2. -/
def running (m : TimerMode) (n : Nat) (d : Dir) : State :=
  { State.reset with timebase := { Timebase.reset with
      mode := m, running := true, count := n, dir := d, limit := 3, mark := 2, limitShadow := 5, markShadow := 4 } }

/-- The hold unit HELD. -/
def held : State := { State.reset with hold := { Hold.reset with state := .held, cause := .software, suppressed := 2 } }

/-- A frame has just begun. -/
def opened (s : State) : State := { s with csLow := true, port := Port.opened }

/-- The part is quiescing. -/
def quiescing : State := { State.reset with quiescing := true }

/-- RST_N is asserted. -/
def resetting : State := { State.reset with inReset := true }

/-- A pass-through request outstanding under tag 3. -/
def outstanding (k : ReqKind) (m : Option GroupId) : State :=
  { State.reset with
    inFlight := State.reset.inFlight.set 3 true, places := 1
    outstanding := State.reset.outstanding.set 3 (some { kind := k, addr := 0x100, size := .b8, mark := m }) }

/-- The reply that stands in the port after a frame. -/
def reply (c : Instr) (s : State) : List Byte := (go c (opened s)).port.reply

/-! ### Memory ports -/

/-- Section 11.2, step 1: allocated as arrival 0, answered OK. -/
theorem test_staged_write_allocates :
    (go (.upstreamRequest 1 .write 0x20000000 .b8 (up 0)) staging).pool = [entry .opened 0] ∧
    (go (.upstreamRequest 1 .write 0x20000000 .b8 (up 0)) staging).responses =
      [{ tag := 1, status := .ok, data := none, holdsTag := true }] := by decide

/-- Section 11.2, step 6: a COMMITTED read is answered from the SEALED entry. -/
theorem test_local_read :
    (go (.upstreamRequest 4 .read 0x20000000 .b8 Lanes.zero) draining).responses =
      [{ tag := 4, status := .ok, data := some (up 0), holdsTag := true }] := by decide

/-- R139. -/
theorem test_response_delivered :
    (go .responseDelivered { State.reset with
      places := 1, inFlight := State.reset.inFlight.set 2 true
      responses := [{ tag := 2, status := .ok, data := none, holdsTag := true }] }).inFlight[2] = false := by decide

/-- Section 11.2, step 5: arrival 0 goes out on tag 16. -/
theorem test_drain_write_granted :
    ((go .arbiterGrant draining).channel.map fun q => (q.tag, q.addr, q.mask)) =
      some (16, 0x20000000#32, 0xFF#8) := by decide

/-- R143. -/
theorem test_request_taken :
    (go .downstreamRequestTaken (go .arbiterGrant draining)).channel = none := by decide

/-- Section 11.2, step 9: the last drain response frees the entry and the slot. -/
theorem test_last_drain_response :
    (go (.downstreamResponse 16 .ok Lanes.zero) (go .arbiterGrant draining)).pool = [] ∧
    (go (.downstreamResponse 16 .ok Lanes.zero) (go .arbiterGrant draining)).groups[0].slot = none := by decide

/-- R146: nothing is outstanding. -/
theorem test_stray_response :
    (go (.downstreamResponse 0 .ok Lanes.zero) State.reset).counter .strayResponses = 1 ∧
    (go (.downstreamResponse 19 .err Lanes.zero) State.reset).flagSet .protocol = true := by decide

/-! ### Time -/

/-- R53: below the limit the count climbs; R57: a ZERO loads the shadows. -/
theorem test_tick_up :
    (go .tick (running .up 0 .up)).timebase.count = 1 ∧
    (go .tick (running .up 3 .up)).timebase.count = 0 ∧ (go .tick (running .up 3 .up)).timebase.limit = 5 := by decide

/-- R55: ONESHOT stops at the limit. -/
theorem test_limit_oneshot :
    (go .limit (running .oneshot 2 .up)).timebase.running = false ∧
    (go .limit (running .oneshot 2 .up)).timebase.count = 3 := by decide

/-- R57: the period number rises. -/
theorem test_zero_updown :
    (go .zero (running .updown 1 .down)).timebase.period = 1 ∧
    (go .zero (running .updown 1 .down)).timebase.count = 0 := by decide

/-- R54: the count turns at the limit. -/
theorem test_peak : (go .peak (running .updown 2 .up)).timebase.dir = .down := by decide

/-- R56. A tick at which the count does not arrive at the mark is not one. -/
theorem test_mark_up :
    (go .markUp (running .up 1 .up)).timebase.count = 2 ∧ (go .markUp (running .up 2 .up)).timebase.count = 2 := by
  decide

/-- R56. -/
theorem test_mark_down : (go .markDown (running .updown 3 .down)).timebase.count = 2 := by decide

/-- R35: STALL_LIMIT 1, so the write expires at the next tick. -/
theorem test_stall_timeout :
    (go .stallTimeout { stalled with stallLimit := 1 }).stall = none ∧
    (go .stallTimeout { stalled with stallLimit := 1 }).responses =
      [{ tag := 9, status := .errStage, data := none, holdsTag := true }] := by decide

/-- R61: a restart while RUNNING. -/
theorem test_sync_restart :
    (go .syncArrival { running .up 2 .up with
      timebase := { (running .up 2 .up).timebase with syncMode := .restart } }).timebase.count = 0 := by decide

/-! ### Hold line and reset -/

/-- R122. -/
theorem test_hold_filtering : (go .hldNAsserted State.reset).hold.state = .filtering := by decide

/-- R123: the filtered pulse is counted. -/
theorem test_hold_filtered :
    (go .hldNDeasserted (go .hldNAsserted State.reset)).counter .holdFiltered = 1 := by decide

/-- R123, R126: the eighth tick trips. -/
theorem test_filter_complete :
    (go .filterComplete { State.reset with
      hldLow := true, hold := { Hold.reset with state := .filtering, counter := 7 } }).holdAct = true := by decide

/-- R151, R120: the hold is gone, and the counters are 0. -/
theorem test_hardware_reset :
    (go .hardwareReset held).hold = Hold.reset ∧ (go .hardwareReset held).inReset = true := by decide

/-- R124, R171: HLD_N and CS_N low as reset ends. -/
theorem test_reset_end :
    (go .resetEnd { resetting with hldLow := true, csLow := true }).hold.state = .filtering ∧
    (go .resetEnd { resetting with hldLow := true, csLow := true }).port.rx = .blocked := by decide

/-! ### Frames: Table 10-1 codes, Tables 10-3 to 10-9 layouts -/

/-- R170. -/
theorem test_cs_rise : (go .csNRise (opened State.reset)).port.rx = .idle := by decide

/-- R169. -/
theorem test_cs_fall : (go .csNFall State.reset).port.rx = .request := by decide

/-- R170: STATUS is the one byte 0x19; the pad byte follows. -/
theorem test_sclk_byte :
    (go (.sclkByte 0x19) (opened State.reset)).port.rx = .pad ∧
    (go (.sclkByte 0x11) (opened State.reset)).port.got = [0x11] := by decide

theorem test_nak_frame : reply (.nakFrame (.kind 0xFF)) State.reset = [0x06] := by decide

/-- R34, Table 10-3: STALL_LIMIT reads 4096 after reset; 0x0A names no register. -/
theorem test_reg_read :
    reply (.regRead 0x06) State.reset = [0x01, 0x00, 0x10, 0x00, 0x00] ∧ reply (.regRead 0x0A) State.reset = [0x03] := by
  decide

/-- R174: COUNT is read-only. -/
theorem test_reg_write :
    reply (.regWrite 0x10 0) State.reset = [0x03] ∧ (go (.regWrite 0x06 1) (opened State.reset)).stallLimit = 1 := by
  decide

/-- R50. -/
theorem test_write_timer_mode :
    reply (.writeTimerMode 1) (running .up 0 .up) = [0x02] ∧
    (go (.writeTimerMode 2) (opened State.reset)).timebase.mode = .oneshot := by decide

/-- R47. -/
theorem test_write_prescale :
    reply (.writePrescale 3) State.reset = [0x03] ∧
    (go (.writePrescale 256) (opened State.reset)).timebase.prescale = 256 := by decide

/-- R52. -/
theorem test_write_period_limit :
    (go (.writePeriodLimit 2) (opened (running .up 0 .up))).timebase.limit = 3 ∧
    (go (.writePeriodLimit 999) (opened State.reset)).timebase.limit = 999 := by decide

/-- R52. -/
theorem test_write_mark : (go (.writeMark 500) (opened State.reset)).timebase.mark = 500 := by decide

/-- R61. -/
theorem test_write_sync_mode :
    (go (.writeSyncMode 2) (opened State.reset)).timebase.syncMode = .restart ∧
    reply (.writeSyncMode 3) State.reset = [0x03] := by decide

/-- R121. -/
theorem test_write_hold_filter :
    (go (.writeHoldFilter 32) (opened State.reset)).hold.filter = 32 ∧
    reply (.writeHoldFilter 12) State.reset = [0x03] := by decide

/-- R34. -/
theorem test_write_stall_limit :
    (go (.writeStallLimit 65535) (opened State.reset)).stallLimit = 65535 ∧
    reply (.writeStallLimit 0) State.reset = [0x03] := by decide

/-- R160. -/
theorem test_write_log_kinds :
    (go (.writeLogKinds 0x7F) (opened State.reset)).log.kinds = 0x7F ∧
    reply (.writeLogKinds 0x80) State.reset = [0x03] := by decide

/-- R163. -/
theorem test_write_log_watermark :
    (go (.writeLogWatermark 32) (opened State.reset)).log.watermark = 32 ∧
    reply (.writeLogWatermark 33) State.reset = [0x03] := by decide

/-- R181: a set flag with its enable drives INT_N. -/
theorem test_write_event_enable :
    (go (.writeEventEnable 0x8000) (opened (State.reset.raise .quiesced))).intAsserted = true ∧
    reply (.writeEventEnable 0x10000) State.reset = [0x03] := by decide

/-- R1, R3: a region record after reset, with its state. -/
theorem test_record_read_region :
    reply (.recordReadRegion 7) State.reset = [0x01, 0, 0, 0, 0, 8, 0, 0, 0, 0] ∧
    reply (.recordReadRegion 8) State.reset = [0x03] := by decide

/-- R2: a base that is not a multiple of the window's size, and an active region. -/
theorem test_record_write_region :
    reply (.recordWriteRegion 1 { base := 0x80, sizeCode := 8, group := 0, view := 0, policy := 0 }) State.reset =
      [0x03] ∧
    reply (.recordWriteRegion 0 { base := 0x80, sizeCode := 8, group := 0, view := 0, policy := 0 }) staging =
      [0x02] := by decide

/-- R18: the sealed fields of a group that drains. -/
theorem test_record_read_group :
    reply (.recordReadGroup 0) draining = [0x01, 0, 1, 64, 0, 0, 8, 0, 0, 0, 0, 3, 7, 0, 1, 0] := by decide

/-- R17: a quota below the open entry count; R175: of the pressure seal byte the low bit alone. -/
theorem test_record_write_group :
    reply (.recordWriteGroup 0 { source := 2, divider := 1, quota := 0, holdPolicy := 0, pressureSeal := 0 })
      State.reset = [0x03] ∧
    ((go (.recordWriteGroup 0 { source := 2, divider := 4, quota := 64, holdPolicy := 1, pressureSeal := 0xFE })
      (opened State.reset)).groups[0]).pressureSeal = false := by decide

/-- R154, R155. -/
theorem test_record_read_watch :
    reply (.recordReadWatch 0) State.reset = [0x01, 0, 0, 0, 0, 0, 0, 0, 0, 2, 1, 0, 0] := by decide

/-- R155: a range that ends below its start. -/
theorem test_record_write_watch :
    reply (.recordWriteWatch 0 { low := 8, high := 7, kinds := 0, decimation := 1, enable := 1 }) State.reset = [0x03] ∧
    (go (.recordWriteWatch 0 { low := 8, high := 8, kinds := 1, decimation := 16, enable := 1 })
      (opened State.reset)).watches[0].enabled = true := by decide

/-! ### Actions -/

/-- R62. -/
theorem test_timer_start :
    (go (.timerStart 0) (opened State.reset)).timebase.running = true ∧
    reply (.timerStart 0) (running .up 0 .up) = [0x02] := by decide

/-- R63: the count stays. -/
theorem test_timer_stop :
    (go (.timerStop 0) (opened (running .up 2 .up))).timebase.count = 2 ∧
    reply (.timerStop 0) State.reset = [0x01, 0, 0] := by decide

/-- R64: the shadows load, and the period number stays. -/
theorem test_timer_restart :
    (go (.timerRestart 0) (opened (running .up 2 .up))).timebase.limit = 5 ∧
    (go (.timerRestart 0) (opened (running .up 2 .up))).timebase.period = 0 := by decide

/-- R74, section 11.5 step 10: the taken mask names the group. -/
theorem test_publish :
    reply (.publish 1) { staging with pool := [entry .opened 0] } = [0x01, 0x01, 0] ∧
    (go (.publish 1) (opened { staging with pool := [entry .opened 0] })).pool = [entry .sealed 0] := by decide

/-- R38. -/
theorem test_discard :
    (go (.discard 1) (opened { staging with pool := [entry .opened 0, entry .sealed 0] })).pool = [entry .sealed 0] ∧
    reply (.discard 0x10) State.reset = [0x03] := by decide

/-- R11: a window over an active one is refused. -/
theorem test_region_enable :
    (go (.regionEnable 1) (opened State.reset)).regions[1].state = .staging ∧
    reply (.regionEnable 1) { staging with regions := staging.regions.set 1 { window with state := .off } } = [0x04] := by
  decide

/-- R12, section 11.6 step 1: the seal waits for the slot. -/
theorem test_region_retire :
    (go (.regionRetire 0) (opened draining)).regions[0].state = .retireWait ∧
    (go (.regionRetire 0) (opened draining)).groups[0].pendingRetire = true := by decide

/-- R125, R126, section 11.5 step 1: the stalled write of a DISCARD group is refused. -/
theorem test_hold_set :
    (go (.holdSet 0) (opened (withGroup stalled { Group.reset with quota := 1, holdPolicy := .discard }))).pool = [] ∧
    (go (.holdSet 0) (opened (withGroup stalled { Group.reset with quota := 1, holdPolicy := .discard }))).counter
      .refusedWrites = 1 := by decide

/-- R130, section 11.5 step 8: two suppressed. -/
theorem test_hold_release :
    (go (.holdRelease 0) (opened held)).log.records.map LogRecord.body = [.holdOff 2] ∧
    reply (.holdRelease 0) { held with hldLow := true } = [0x02] := by decide

/-- R166. -/
theorem test_log_clear :
    (go (.logClear 0) (opened { State.reset with log := { Log.reset with lost := 3 } })).log.lost = 0 := by decide

/-- R182: the flags left. -/
theorem test_event_ack : reply (.eventAck 0x7FFF) ((State.reset.raise .quiesced).raise .protocol) = [0x01, 0, 0x80] := by
  decide

/-- R184. -/
theorem test_counters_clear :
    (go (.countersClear 0) (opened (State.reset.bump .protocolErrors 5))).counter .protocolErrors = 0 := by decide

/-- R147, R149: nothing is left on the path, so the quiesce ends within the action. -/
theorem test_datapath_reset :
    (go (.datapathReset 0) (opened State.reset)).flagSet .quiesced = true ∧
    reply (.datapathReset 0) quiescing = [0x05] := by decide

/-- R149. -/
theorem test_quiesce_end :
    (go .quiesceEnd { draining with quiescing := true }).pool = [] ∧
    (go .quiesceEnd { draining with quiescing := true }).log.records.map LogRecord.body =
      [.drainDone 7 0 0 true 0] := by decide

/-- R164: an empty log. -/
theorem test_log_pop : reply .logPop State.reset = [0x07] := by decide

/-- R165: the record stays. -/
theorem test_log_peek :
    (go .logPeek (opened (State.reset.logRecord 0 State.reset.now (.holdOff 2)))).log.records.length = 1 ∧
    reply .logPeek (State.reset.logRecord 0 State.reset.now (.holdOff 2)) =
      [0x01, 7, 0, 0, 0, 0, 0, 0, 0, 2, 0, 0, 0, 0, 0, 0, 0] := by decide

/-- R178, Table 10-8. -/
theorem test_probe :
    reply (.probe 0x20000005) draining =
      [0x01, 0, 2, 0, 0xFF, 0, 0, 0, 0, 0, 0, 0, 0, 0, 1, 2, 3, 4, 5, 6, 7] := by decide

/-- R179, Table 10-9: HELD, POOL_USED 0. -/
theorem test_status : reply .status held = [0x01, 0, 0, 0x02, 0] := by decide

/-! ### The queue of commands -/

theorem test_step_takes_front : step { State.reset with pending := [.hldNAsserted, .tick] } =
    exec .hldNAsserted { State.reset with pending := [.tick] } := rfl

/-- No row of the table has bits. -/
theorem test_no_word : decodeTableWord 8 0x19 = none := rfl

/-! ### Witnesses: for each obligation with hypotheses, states and operands that meet those of each clause -/

theorem test_witness_FrontCommandIsTaken :
    ({ State.reset with pending := [.tick, .status] } : State).pending = .tick :: [.status] ∧
    State.reset.pending = [] := by decide

theorem test_witness_CommandsKeepTheQueue : ∃ t, exec .tick State.reset = .next t := ⟨_, rfl⟩

theorem test_witness_ResetSilencesCommands :
    resetting.inReset = true ∧
    Instr.tick ∉ ([.hldNAsserted, .hldNDeasserted, .csNFall, .csNRise, .hardwareReset, .resetEnd] : List Instr) := by
  decide

/-- What the checks of R134 and R136 ask of a request, with no watch selected. -/
abbrev Accepted (s : State) (tag : UTag) (kind : ReqKind) (a : Addr) (z : Size) : Prop :=
  s.stall = none ∧ s.quiescing = false ∧ s.places < 32 ∧ s.inReset = false ∧ s.selectWatch kind a = none ∧
  s.inFlight[tag] = false ∧ a.toNat % Size.bytes z = 0

/-- The part takes the last place, and waits with none; the tag is in flight or the address odd. -/
theorem test_witness_RequestsWaitOrAreRefused :
    stalled.stall ≠ none ∧ quiescing.quiescing = true ∧ 32 ≤ ({ State.reset with places := 32 } : State).places ∧
    resetting.inReset = true ∧
    (let s := { outstanding .read none with places := 31 }
     s.stall = none ∧ s.quiescing = false ∧ s.places < 32 ∧ s.inReset = false ∧ s.selectWatch .read 1 = none ∧
     s.inFlight[(3 : UTag)] = true ∧ s.inFlight[(4 : UTag)] = false ∧ (1 : Addr).toNat % Size.bytes .b2 ≠ 0) := by
  decide

/-- The byte below the window, and the byte above it; the first and the last byte of one of two windows that touch. -/
theorem test_witness_UnmatchedRequestsPassThrough :
    (let s := { staging with regions := staging.regions.set 1 { window with base := 0x20000100 } }
     (∀ r q : RegionId, r ≠ q → s.regions[r].active = true → s.regions[q].active = true →
       s.regions[r].overlaps s.regions[q] = false) ∧
     s.lookup 0x20000100 = some 1 ∧ s.lookup 0x200001FF = some 1) ∧
    Accepted staging 0 .write 0x1FFFFFFF .b1 ∧ Accepted staging 0 .write 0x20000100 .b8 ∧
    (∀ r : RegionId, staging.regions[r].state ≠ .off → staging.regions[r].contains 0x1FFFFFFF = false) ∧
    (∀ r : RegionId, staging.regions[r].state ≠ .off → staging.regions[r].contains 0x20000100 = false) := by decide

/-- A merge in a part whose group is at its quota; an allocation that brings a group to its quota. -/
theorem test_witness_StagedWritesMergeOrAllocate :
    (let s := { stalled with stall := none }
     Accepted s 0 .write 0x20000004 .b4 ∧ s.lookup 0x20000004 = some 0 ∧ s.regions[(0 : RegionId)].group = 0 ∧
     s.regions[(0 : RegionId)].state = .staging ∧ s.hold.state ≠ .held ∧
     s.findEntry 0 .opened (doubleword 0x20000004) = some (entry .opened 0)) ∧
    (let s := withGroup staging { Group.reset with quota := 1 }
     Accepted s 0 .write 0x200000F8 .b8 ∧ s.lookup 0x200000F8 = some 0 ∧ s.regions[(0 : RegionId)].group = 0 ∧
     s.regions[(0 : RegionId)].state = .staging ∧ s.hold.state ≠ .held ∧
     s.findEntry 0 .opened (doubleword 0x200000F8) = none ∧ s.pool.length < 64 ∧
     s.openCount 0 < s.groups[(0 : GroupId)].quota) := by decide

/-- A DISCARD group under a hold; a RETIRE_DRAIN region; a group at its quota under STALL and under REJECT. -/
theorem test_witness_WritesThatAreNotStaged :
    (let s := withGroup { staging with hold := held.hold } { Group.reset with holdPolicy := .discard }
     Accepted s 0 .write 0x20000000 .b8 ∧ s.lookup 0x20000000 = some 0 ∧ s.regions[(0 : RegionId)].group = 0 ∧
     s.hold.state = .held ∧ s.groups[(0 : GroupId)].holdPolicy = .discard) ∧
    (let s := { staging with regions := staging.regions.set 0 { window with state := .retireDrain } }
     Accepted s 0 .write 0x20000000 .b8 ∧ s.lookup 0x20000000 = some 0 ∧ s.regions[(0 : RegionId)].group = 0 ∧
     s.hold.state ≠ .held ∧ s.regions[(0 : RegionId)].state = .retireDrain) ∧
    (let s := { stalled with stall := none }
     Accepted s 0 .write 0x20000008 .b8 ∧ s.lookup 0x20000008 = some 0 ∧ s.regions[(0 : RegionId)].group = 0 ∧
     s.hold.state ≠ .held ∧ s.regions[(0 : RegionId)].state = .staging ∧
     s.findEntry 0 .opened (doubleword 0x20000008) = none ∧ s.groups[(0 : GroupId)].quota ≤ s.openCount 0 ∧
     s.groups[(0 : GroupId)].pressureSeal = false ∧ s.regions[(0 : RegionId)].policy = .stall) ∧
    (let s := { stalled with
       stall := none, regions := staging.regions.set 0 { window with policy := .reject, state := .retireWait } }
     Accepted s 0 .write 0x20000008 .b8 ∧ s.lookup 0x20000008 = some 0 ∧ s.regions[(0 : RegionId)].group = 0 ∧
     s.hold.state ≠ .held ∧ s.regions[(0 : RegionId)].state = .retireWait ∧
     s.findEntry 0 .opened (doubleword 0x20000008) = none ∧ s.groups[(0 : GroupId)].quota ≤ s.openCount 0 ∧
     s.groups[(0 : GroupId)].pressureSeal = false ∧ s.regions[(0 : RegionId)].policy = .reject) := by decide

/-- Group 0 at its quota of 1 under pressure sealing, with the given sealed slot, and region 0 as given. -/
def pressed (sl : Option SealedSlot) (r : Region) : State :=
  { withGroup staging { Group.reset with quota := 1, pressureSeal := true, slot := sl } with
    pool := [entry .opened 0], regions := staging.regions.set 0 r }

/-- What a PRESSURE request asks of the taking of a write at 0x2000_0008. -/
abbrev Pressing (s : State) : Prop :=
  Accepted s 0 .write 0x20000008 .b8 ∧ s.lookup 0x20000008 = some 0 ∧ s.regions[(0 : RegionId)].group = 0 ∧
  (s.regions[(0 : RegionId)].state = .staging ∨ s.regions[(0 : RegionId)].state = .retireWait) ∧
  (s.hold.state ≠ .held ∨ s.groups[(0 : GroupId)].holdPolicy = .freeze) ∧
  s.findEntry 0 .opened (doubleword 0x20000008) = none ∧
  (64 ≤ s.pool.length ∨ s.groups[(0 : GroupId)].quota ≤ s.openCount 0) ∧
  s.groups[(0 : GroupId)].pressureSeal = true ∧ 0 < s.openCount 0

/-- Section 11.4, step 1, with a quota of 1. -/
theorem test_witness_PressureSealsTheFullGroup :
    let s := pressed none window
    Pressing s ∧ s.hold.state ≠ .held ∧ s.groups[(0 : GroupId)].slot = none ∧
    s.regions[(0 : RegionId)].policy = .stall ∧ s.regions[(0 : RegionId)].state = .staging ∧ s.pool.length < 64 ∧
    1 ≤ s.groups[(0 : GroupId)].quota := by decide

/-- Under REJECT. -/
theorem test_witness_PressureSealsTheFullGroup_reject :
    let s := pressed none { window with policy := .reject }
    Pressing s ∧ s.hold.state ≠ .held ∧ s.groups[(0 : GroupId)].slot = none ∧
    s.regions[(0 : RegionId)].policy = .reject := by decide

/-- In a retiring region. -/
theorem test_witness_PressureSealsTheFullGroup_retiring :
    let s := pressed none { window with state := .retireWait }
    Pressing s ∧ s.hold.state ≠ .held ∧ s.groups[(0 : GroupId)].slot = none ∧
    s.regions[(0 : RegionId)].policy = .stall ∧ s.regions[(0 : RegionId)].state = .retireWait := by decide

/-- In a full pool. -/
theorem test_witness_PressureSealsTheFullGroup_pool :
    let s := { pressed none window with
      pool := entry .opened 0 :: List.replicate 63 { entry .sealed 4 with group := 1 } }
    Pressing s ∧ s.hold.state ≠ .held ∧ s.groups[(0 : GroupId)].slot = none ∧
    s.regions[(0 : RegionId)].policy = .stall ∧ s.regions[(0 : RegionId)].state = .staging ∧ 64 ≤ s.pool.length := by
  decide

/-- Turned away by an occupied slot, under STALL and under REJECT, and by a hold. -/
theorem test_witness_PressureSealsTheFullGroup_turnedAway :
    (let s := pressed (some (slot .draining)) window
     Pressing s ∧ s.groups[(0 : GroupId)].slot ≠ none ∧ s.regions[(0 : RegionId)].policy = .stall) ∧
    (let s := pressed (some (slot .fenced)) { window with policy := .reject }
     Pressing s ∧ s.groups[(0 : GroupId)].slot ≠ none ∧ s.regions[(0 : RegionId)].policy = .reject) ∧
    (let s := { pressed none window with hold := held.hold }
     Pressing s ∧ s.hold.state = .held ∧ s.groups[(0 : GroupId)].holdPolicy = .freeze) := by decide

theorem test_witness_ReadsAreLocalOrForwarded :
    Accepted draining 0 .read 0x20000000 .b8 ∧ draining.lookup 0x20000000 = some 0 ∧
    (draining.snapshot draining.regions[(0 : RegionId)] 0x20000000 .b8).1 = laneMask 0x20000000 .b8 ∧
    Accepted draining 0 .read 0x20000008 .b8 ∧ draining.lookup 0x20000008 = some 0 ∧
    (draining.snapshot draining.regions[(0 : RegionId)] 0x20000008 .b8).1 ≠ laneMask 0x20000008 .b8 := by decide

/-- Both entries of a doubleword, for each source of the table. -/
theorem test_witness_SnapshotFollowsTheView :
    (let s := { draining with pool := [entry .sealed 0, entry .opened 0] }
     s.findEntry 0 .opened (doubleword 0x20000000) = some (entry .opened 0) ∧
     s.findEntry 0 .sealed (doubleword 0x20000000) = some (entry .sealed 0)) ∧
    window.view = .committed ∧ ({ window with state := .retireDrain } : Region).state = .retireDrain ∧
    ({ window with view := .staged } : Region).view = .staged ∧
    ({ window with view := .staged } : Region).state ≠ .retireDrain := by decide

theorem test_witness_ReadsLeaveStagedStateAlone :
    ∃ t, exec (.upstreamRequest 0 .read 0x20000000 .b8 Lanes.zero) draining = .next t := ⟨_, rfl⟩

/-- Watch 1 enabled over the byte at 8. -/
def watching (k : WatchKinds) (n : Nat) : State :=
  let w : Watch := { low := 8, high := 8, kinds := k, decimation := n, enabled := true, counter := 0 }
  { State.reset with watches := State.reset.watches.set 1 w }

/-- Watch 0 enabled over every address and kind, at its decimation. -/
def watched (s : State) : State :=
  let w : Watch := { low := 0, high := 0xFFFFFFFF, kinds := .both, decimation := 1, enabled := true, counter := 0 }
  { s with watches := s.watches.set 0 w }

/-- What the watch of a request asks besides its path. -/
abbrev Watched (s : State) (k : ReqKind) (a : Addr) (w : Fin 4) : Prop :=
  s.stall = none ∧ s.quiescing = false ∧ s.places < 32 ∧ s.inReset = false ∧ s.selectWatch k a = some w

/-- A watch of one byte, with decimation 4 and with decimation 1, and the request passed through. -/
theorem test_witness_WatchesLogTakenRequests :
    (let s := watching .write 4
     Watched s .write 8 1 ∧ PathTaken s 0 8 .b8 .write .pass ∧ (∀ g : GroupId, ¬ PressureSeals s 0 8 .b8 .write g) ∧
     s.watches[(1 : Fin 4)].counter + 1 ≠ s.watches[(1 : Fin 4)].decimation) ∧
    (let s := watching .both 1
     Watched s .read 8 1 ∧ PathTaken s 0 8 .b8 .read .pass ∧ (∀ g : GroupId, ¬ PressureSeals s 0 8 .b8 .read g) ∧
     s.watches[(1 : Fin 4)].counter + 1 = s.watches[(1 : Fin 4)].decimation) :=
  ⟨⟨by decide, .pass (by decide) (by decide) (by decide), fun _ h => Nat.lt_irrefl 0 h.entries, by decide⟩,
    ⟨by decide, .pass (by decide) (by decide) (by decide), fun _ h => ReqKind.noConfusion h.write, by decide⟩⟩

/-- The other paths, where nothing seals: a tag clash, an odd address, a local read, a forwarded read, a write of a
DISCARD group under a hold, a write to a RETIRE_DRAIN region, a merge, and a write turned away by a full group. -/
theorem test_witness_WatchesLogTakenRequests_paths :
    (Watched (watched (outstanding .read none)) .read 8 0 ∧
      PathTaken (watched (outstanding .read none)) 3 8 .b8 .read .refused) ∧
    PathTaken (watched State.reset) 0 1 .b2 .read .refused ∧
    (Watched (watched draining) .read 0x20000000 0 ∧
      PathTaken (watched draining) 0 0x20000000 .b8 .read .localRead) ∧
    PathTaken (watched draining) 0 0x20000008 .b8 .read .forwarded ∧
    PathTaken (watched (withGroup { staging with hold := held.hold } { Group.reset with holdPolicy := .discard }))
      0 0x20000000 .b8 .write .refused ∧
    PathTaken (watched (pressed none { window with state := .retireDrain })) 0 0x20000008 .b8 .write .stalled ∧
    PathTaken (watched (pressed none window)) 0 0x20000000 .b8 .write .staged ∧
    PathTaken (watched (pressed (some (slot .draining)) window)) 0 0x20000008 .b8 .write .stalled ∧
    PathTaken (watched (pressed (some (slot .draining)) { window with policy := .reject })) 0 0x20000008 .b8 .write
      .refused :=
  ⟨⟨by decide, .clash (by decide)⟩, .misaligned (by decide) (by decide),
    ⟨by decide, .localRead 0 (by decide) (by decide) (by decide) (by decide)⟩,
    .forwarded 0 (by decide) (by decide) (by decide) (by decide),
    .held 0 (by decide) (by decide) (by decide) (by decide) (by decide),
    .retiring 0 (by decide) (by decide) (by decide) (by decide) (by decide),
    .staged 0 (by decide) (by decide) (by decide) (by decide) (by decide) (by decide),
    .full 0 (by decide) (by decide) (by decide) (by decide) (by decide) (by decide) (by decide),
    .full (s := watched (pressed (some (slot .draining)) { window with policy := .reject })) 0 (by decide) (by decide)
      (by decide) (by decide) (by decide) (by decide) (by decide)⟩

/-- A write of a full group whose taking seals it, under a watch at its decimation. -/
theorem test_witness_WatchesLogTakenRequests_pressure :
    let s := watched (pressed none window)
    Watched s .write 0x20000008 0 ∧ PathTaken s 0 0x20000008 .b8 .write .stalled ∧
    PressureSeals s 0 0x20000008 .b8 .write 0 ∧ s.watches[(0 : Fin 4)].counter + 1 = s.watches[(0 : Fin 4)].decimation :=
  ⟨by decide, .full 0 (by decide) (by decide) (by decide) (by decide) (by decide) (by decide) (by decide),
    ⟨rfl, by decide, by decide, ⟨0, by decide⟩, by decide, by decide, by decide, by decide, by decide, by decide⟩,
    by decide⟩

/-- The same below the watch's decimation. -/
theorem test_witness_WatchesLogTakenRequests_pressureCounted :
    let w : Watch := { low := 0, high := 0xFFFFFFFF, kinds := .both, decimation := 2, enabled := true, counter := 0 }
    let s := { pressed none window with watches := State.reset.watches.set 0 w }
    Watched s .write 0x20000008 0 ∧ PathTaken s 0 0x20000008 .b8 .write .stalled ∧
    PressureSeals s 0 0x20000008 .b8 .write 0 ∧ s.watches[(0 : Fin 4)].counter + 1 ≠ s.watches[(0 : Fin 4)].decimation :=
  ⟨by decide, .full 0 (by decide) (by decide) (by decide) (by decide) (by decide) (by decide) (by decide),
    ⟨rfl, by decide, by decide, ⟨0, by decide⟩, by decide, by decide, by decide, by decide, by decide, by decide⟩,
    by decide⟩

/-- A kind that is off; a log with room below and at its watermark; a full log. -/
theorem test_witness_WatchesLogTakenRequests_records :
    ({ State.reset.log with kinds := 0x3F } : Log).kinds.getLsbD 6 = false ∧ State.reset.log.kinds.getLsbD 6 = true ∧
    State.reset.log.records.length < 32 ∧ State.reset.log.records.length + 1 ≠ State.reset.log.watermark ∧
    State.reset.log.records.length + 1 = ({ State.reset.log with watermark := 1 } : Log).watermark ∧
    (let r : LogRecord := { index := 0, stamp := State.reset.now, gap := 0, gapPresent := false, body := .holdOff 2 }
     32 ≤ (List.replicate 32 r).length) := by decide

/-- The last lane of a doubleword, and the whole of one. -/
theorem test_witness_LanesOfARequest :
    (7 : Addr).toNat % Size.bytes .b1 = 0 ∧ (0xFFFFFFF8 : Addr).toNat % Size.bytes .b8 = 0 := by decide

theorem test_witness_ResponsesDeliveredInOrder :
    State.reset.inReset = false ∧ State.reset.responses = [] ∧
    (go (.upstreamRequest 1 .write 0x20000000 .b8 (up 0)) staging).responses =
      { tag := 1, status := .ok, data := none, holdsTag := true } :: [] := by decide

/-- A request in the forward queue. -/
def queued : State := go (.upstreamRequest 3 .read 0x100 .b8 Lanes.zero) State.reset

theorem test_witness_ArbiterGrantsInTurn :
    State.reset.inReset = false ∧ (go .arbiterGrant draining).channel ≠ none ∧
    (State.reset.channel = none ∧ State.reset.forwardQueue = [] ∧ State.reset.drainWrite = none) ∧
    (queued.channel = none ∧ queued.drainWrite = none ∧ queued.lastGrant = .drain ∧
      queued.forwardQueue = [{ tag := 3, kind := .read, addr := 0x100, size := .b8, data := Lanes.zero, mark := none }]) ∧
    (draining.drainWrite = some (0, 0, entry .sealed 0) ∧ draining.forwardQueue = []) ∧
    (let s := { draining with forwardQueue := queued.forwardQueue, lastGrant := .forward }
     s.drainWrite = some (0, 0, entry .sealed 0) ∧ s.lastGrant = .forward) := by decide

theorem test_witness_StrayResponsesCounted :
    State.reset.inReset = false ∧ State.reset.outstanding[(15 : UTag)] = none ∧
    State.reset.drainTags[(3 : Fin 4)] = none := by decide

/-- A forwarded read of one lane: its record. -/
def record : ReadRecord := { addr := 0x100, lanes := 0x80, snapMask := 0, snapData := Lanes.zero, mark := none }

theorem test_witness_ForwardedRequestsAnswered :
    (outstanding .read none).inReset = false ∧
    (outstanding .read none).outstanding[(3 : UTag)] = some { kind := .read, addr := 0x100, size := .b8, mark := none } ∧
    (outstanding .read none).tracker[(3 : UTag)] = none ∧
    (let s := { outstanding .read none with tracker := State.reset.tracker.set 3 (some record) }
     s.tracker[(3 : UTag)] = some record ∧ record.mark = none) := by decide

/-- Group 0 FENCED on n members. -/
def fenced (n : Nat) : State :=
  withGroup (outstanding .write (some 0)) { Group.reset with slot := some { slot .fenced with fence := n } }

theorem test_witness_MarkedResponsesLowerTheFence :
    ((fenced 2).inReset = false ∧ (fenced 2).tracker[(3 : UTag)] = none ∧
      (fenced 2).outstanding[(3 : UTag)] = some { kind := .write, addr := 0x100, size := .b8, mark := some 0 } ∧
      (fenced 2).groups[(0 : GroupId)].slot = some { slot .fenced with fence := 2 }) ∧
    ((fenced 1).inReset = false ∧ (fenced 1).ready = [] ∧ (fenced 1).quiescing = false ∧
      (fenced 1).groups[(0 : GroupId)].slot = some { slot .fenced with fence := 1 }) ∧
    ({ fenced 1 with quiescing := true } : State).quiescing = true := by decide

/-- A marked forwarded read; a ready queue whose head is another DRAINING group. -/
theorem test_witness_MarkedResponsesLowerTheFence_reads :
    (let s := { fenced 1 with tracker := State.reset.tracker.set 3 (some { record with mark := some 0 }) }
     s.inReset = false ∧ s.tracker[(3 : UTag)] = some { record with mark := some 0 } ∧
     s.outstanding[(3 : UTag)] ≠ none) ∧
    (let s := { fenced 1 with
       ready := [1], groups := (fenced 1).groups.set 1 { Group.reset with slot := some (slot .draining) } }
     s.ready.head? = some 1 ∧ (1 : GroupId) ≠ 0 ∧ s.groups[(1 : GroupId)].slot = some (slot .draining) ∧
     (slot .draining).phase = .draining ∧ s.groups[(0 : GroupId)].slot = some { slot .fenced with fence := 1 }) := by
  decide

/-- `draining` with a second entry, and its first drain write issued. -/
def twoLeft : State :=
  { withGroup staging { Group.reset with slot := some { slot .draining with entries := 2 } } with
    pool := [entry .sealed 0, entry .sealed 1], ready := [0], nextIssue := 1
    drainTags := State.reset.drainTags.set 0 (some { group := 0, arrival := 0 }) }

theorem test_witness_DrainResponsesCounted :
    twoLeft.inReset = false ∧ twoLeft.drainTags[(0 : Fin 4)] = some { group := 0, arrival := 0 } ∧
    twoLeft.groups[(0 : GroupId)].slot = some { slot .draining with entries := 2 } ∧ (0 + 0 + 1 ≠ 2) ∧
    (twoLeft.pool.find? fun x => decide (x.group = 0 ∧ x.role = .sealed ∧ x.arrival = 0)) = some (entry .sealed 0) := by
  decide

/-- The last drain write of a generation, answered during a quiesce. -/
theorem test_witness_DrainResponsesCounted_quiescing :
    let s := { go .arbiterGrant draining with quiescing := true }
    s.inReset = false ∧ s.drainTags[(0 : Fin 4)] = some { group := 0, arrival := 0 } ∧
    s.groups[(0 : GroupId)].slot = some (slot .draining) ∧ s.quiescing = true ∧
    (s.pool.find? fun x => decide (x.group = 0 ∧ x.role = .sealed ∧ x.arrival = 0)) =
      some { entry .sealed 0 with issued := true } := by decide

theorem test_witness_LastDrainResponseCompletes :
    let s := go .arbiterGrant draining
    s.inReset = false ∧ s.quiescing = false ∧ s.drainTags[(0 : Fin 4)] = some { group := 0, arrival := 0 } ∧
    s.groups[(0 : GroupId)].slot = some (slot .draining) ∧ (slot .draining).phase = .draining ∧
    (slot .draining).written + (slot .draining).failed + 1 = (slot .draining).entries ∧ s.stall = none ∧
    s.groups[(0 : GroupId)].pendingRetire = false ∧ s.ready = [0] ∧ (0 : GroupId) ∉ ([] : List GroupId) ∧
    (s.pool.find? fun x => decide (x.group = 0 ∧ x.role = .sealed ∧ x.arrival = 0)) =
      some { entry .sealed 0 with issued := true } := by decide

/-- The last answer with group 1 READY behind it. R95, R96, R90: with ERR the entry counts as failed, and group 1
drains. -/
theorem test_witness_LastDrainResponseCompletes_next :
    let s := { go .arbiterGrant draining with
      groups := (go .arbiterGrant draining).groups.set 1 { Group.reset with slot := some (slot .ready) }, ready := [0, 1] }
    s.inReset = false ∧ s.quiescing = false ∧ s.drainTags[(0 : Fin 4)] = some { group := 0, arrival := 0 } ∧
    s.groups[(0 : GroupId)].slot = some (slot .draining) ∧ s.ready = [0, 1] ∧ (0 : GroupId) ∉ ([1] : List GroupId) ∧
    s.groups[(1 : GroupId)].slot = some (slot .ready) ∧ (slot .ready).phase = .ready ∧ s.stall = none ∧
    (let t := go (.downstreamResponse 16 .err Lanes.zero) s
     t.groups[(1 : GroupId)].slot = some (slot .draining) ∧
     t.log.records.map LogRecord.body = [.drainFault 0x20000000 7, .drainDone 7 0 1 false 0]) := by decide

/-- `draining` with its drain write issued, and a retire seal pending behind it. -/
def retiring (l : List Entry) : State :=
  go .arbiterGrant { withGroup draining { draining.groups[0] with pendingRetire := true } with
    pool := entry .sealed 0 :: l, regions := staging.regions.set 0 { window with state := .retireWait } }

/-- A pending retire seal of an empty generation and of one with an entry, and one kept by a hold. -/
theorem test_witness_LastDrainResponseCompletes_pending :
    (let s := retiring []
     s.inReset = false ∧ s.quiescing = false ∧ s.drainTags[(0 : Fin 4)] = some { group := 0, arrival := 0 } ∧
     s.groups[(0 : GroupId)].slot = some (slot .draining) ∧ s.ready = [0] ∧ s.stall = none ∧
     s.groups[(0 : GroupId)].pendingRetire = true ∧ s.hold.state ≠ .held ∧ s.openCount 0 = 0) ∧
    (let s := retiring [{ entry .opened 1 with arrival := 0 }]
     s.stall = none ∧ s.groups[(0 : GroupId)].pendingRetire = true ∧ s.hold.state ≠ .held ∧ 0 < s.openCount 0) ∧
    { retiring [] with hold := held.hold }.hold.state = .held := by decide

/-- `draining` with its drain write issued, its group at a quota of 1 under pressure sealing, regions 0 and 1 in the
given states, and a write of region 0 stalled. -/
def stalledBehind (a b : RegionState) : State :=
  go .arbiterGrant { withGroup draining { draining.groups[0] with quota := 1, pressureSeal := true } with
    pool := [entry .sealed 0, { entry .opened 2 with arrival := 0 }], stall := some waiting
    regions := (staging.regions.set 0 { window with state := a }).set 1
      { window with base := 0x20000100, state := b } }

/-- R14: the completion turns the region of the stalled write OFF, and the write is forwarded. R33: the completion
turns another region of its group OFF, and the write is offered anew, seals the group and is staged. -/
theorem test_witness_LastDrainResponseCompletes_stalled :
    (let s := stalledBehind .retireDrain .off
     s.inReset = false ∧ s.quiescing = false ∧ s.drainTags[(0 : Fin 4)] = some { group := 0, arrival := 0 } ∧
     s.groups[(0 : GroupId)].slot = some (slot .draining) ∧ s.ready = [0] ∧ s.stall = some waiting ∧
     s.groups[(0 : GroupId)].pendingRetire = false ∧ s.regions[waiting.region].group = 0 ∧
     s.regions[waiting.region].state = .retireDrain ∧
     (go (.downstreamResponse 16 .ok Lanes.zero) s).forwardQueue = [waiting.asForward]) ∧
    (let s := stalledBehind .staging .retireDrain
     s.drainTags[(0 : Fin 4)] = some { group := 0, arrival := 0 } ∧
     s.groups[(0 : GroupId)].slot = some (slot .draining) ∧ s.ready = [0] ∧ s.stall = some waiting ∧
     s.groups[(0 : GroupId)].pendingRetire = false ∧ s.regions[waiting.region].group = 0 ∧
     s.regions[waiting.region].state = .staging ∧ s.hold.state ≠ .held ∧
     s.groups[(0 : GroupId)].pressureSeal = true ∧ s.regions[(1 : RegionId)].group = 0 ∧
     s.regions[(1 : RegionId)].state = .retireDrain ∧ s.findEntry 0 .opened (doubleword waiting.addr) = none ∧
     s.pool.length ≤ 64 ∧ 1 ≤ s.groups[(0 : GroupId)].quota ∧ s.groups[(0 : GroupId)].quota ≤ s.openCount 0 ∧
     (∃ e ∈ s.pool, e.group = 0 ∧ e.role = .sealed ∧ e.arrival = 0) ∧
     (go (.downstreamResponse 16 .ok Lanes.zero) s).stall = none) := by decide

/-- The counts on either side of each turn. -/
theorem test_witness_TickStepsTheCounter :
    State.reset.inReset = false ∧ State.reset.timebase.running = false ∧
    (let s := running .up 2 .up
     s.inReset = false ∧ s.timebase.running = true ∧ s.timebase.mode = .up ∧ s.timebase.count < s.timebase.limit) ∧
    (let s := running .up 3 .up
     s.timebase.running = true ∧ s.timebase.mode = .up ∧ s.timebase.count = s.timebase.limit) ∧
    (let s := running .updown 2 .up
     s.timebase.running = true ∧ s.timebase.mode = .updown ∧ s.timebase.dir = .up) ∧
    (let s := running .updown 2 .down
     s.timebase.running = true ∧ s.timebase.mode = .updown ∧ s.timebase.dir = .down ∧ 1 < s.timebase.count) ∧
    (let s := running .updown 1 .down
     s.timebase.running = true ∧ s.timebase.mode = .updown ∧ s.timebase.dir = .down ∧ s.timebase.count = 1) ∧
    (let s := running .oneshot 2 .up
     s.timebase.running = true ∧ s.timebase.mode = .oneshot) := by decide

/-- One tick short of the expiry and of the filter. -/
theorem test_witness_QuietTickAgesCounts :
    let s := { stalled with stallLimit := 2, hold := { Hold.reset with state := .filtering, counter := 6 } }
    s.inReset = false ∧ s.timebase.running = false ∧ s.stall = some waiting ∧
    min 65535 (waiting.elapsed + 1) < s.stallLimit ∧ s.hold.counter + 1 < s.hold.filter := by decide

theorem test_witness_NamedTicksStepTheCounter :
    (let t := (running .up 2 .up).timebase
     t.running = true ∧ t.mode = .up ∧ t.count < t.limit ∧ t.count + 1 = t.limit) ∧
    (let t := (running .oneshot 2 .up).timebase
     t.running = true ∧ t.mode = .oneshot ∧ t.count + 1 = t.limit) ∧
    (let t := (running .up 3 .up).timebase
     t.running = true ∧ t.mode = .up ∧ t.count = t.limit) ∧
    (let t := (running .updown 1 .down).timebase
     t.running = true ∧ t.mode = .updown ∧ t.dir = .down ∧ t.count = 1) ∧
    (let t := (running .updown 2 .up).timebase
     t.running = true ∧ t.mode = .updown ∧ t.dir = .up ∧ t.count + 1 = t.limit) ∧
    (let t := (running .up 1 .up).timebase
     t.running = true ∧ t.mode = .up ∧ t.count < t.limit ∧ t.count + 1 = t.mark) ∧
    (let t := (running .updown 3 .down).timebase
     t.running = true ∧ t.mode = .updown ∧ t.dir = .down ∧ 1 < t.count ∧ t.count - 1 = t.mark) := by decide

/-- The marks of the other modes and turns: at the wrap of UP, on the climb of UPDOWN below its limit and at it, in
ONESHOT below its limit and at it, and at the arrival of UPDOWN at 0. R56, R58: the events and the stamp of a mark at
the limit of UPDOWN. -/
theorem test_witness_NamedTicksStepTheCounter_marks :
    (let t := { (running .up 3 .up).timebase with markShadow := 0 }
     t.running = true ∧ t.mode = .up ∧ t.count = t.limit ∧ t.markShadow = 0) ∧
    (let t := (running .updown 1 .up).timebase
     t.running = true ∧ t.mode = .updown ∧ t.dir = .up ∧ t.count + 1 = t.mark ∧ t.mark ≠ t.limit) ∧
    (let t := { (running .updown 2 .up).timebase with mark := 3 }
     t.running = true ∧ t.mode = .updown ∧ t.dir = .up ∧ t.count + 1 = t.mark ∧ t.mark = t.limit ∧
     t.step.events = [.peak, .markUp] ∧ t.step.stamp = { period := 0, count := 3, dir := .up }) ∧
    (let t := (running .oneshot 1 .up).timebase
     t.running = true ∧ t.mode = .oneshot ∧ t.count + 1 = t.mark ∧ t.mark ≠ t.limit) ∧
    (let t := { (running .oneshot 2 .up).timebase with mark := 3 }
     t.running = true ∧ t.mode = .oneshot ∧ t.count + 1 = t.mark ∧ t.mark = t.limit) ∧
    (let t := { (running .updown 1 .down).timebase with markShadow := 0 }
     t.running = true ∧ t.mode = .updown ∧ t.dir = .down ∧ t.count = 1 ∧ t.markShadow = 0) ∧
    State.reset.timebase.running = false := by decide

/-- A ZERO at the next tick, for group 0 with source ZERO and the given divider and sealed slot. -/
def zeroNext (n : Nat) (sl : Option SealedSlot) : State :=
  withGroup (running .up 3 .up) { Group.reset with source := .zero, divider := n, slot := sl }

theorem test_witness_DeliveredEventsCounted :
    let s := zeroNext 2 none
    s.inReset = false ∧ s.hold.state = .clear ∧ s.quiescing = false ∧ s.stall = none ∧
    TbEvent.zero ∈ s.timebase.step.events ∧
    (∀ g : GroupId, (∃ e ∈ s.timebase.step.events, s.groups[g].source.matches e = true) →
      s.groups[g].dividerCount + 1 < s.groups[g].divider) := by decide

theorem test_witness_SuppressedEventsCounted :
    (let s := { zeroNext 1 none with hold := held.hold }
     s.inReset = false ∧ s.hold.state ≠ .filtering ∧ s.stall = none ∧ s.hold.state = .held ∧
     s.hold.suppressed ≤ 65535) ∧
    (let s := { zeroNext 1 none with quiescing := true }
     s.inReset = false ∧ s.hold.state ≠ .filtering ∧ s.stall = none ∧ s.quiescing = true ∧ s.hold.state ≠ .held) := by
  decide

theorem test_witness_TriggerSealsOrOverruns :
    (let s := { zeroNext 1 none with pool := [entry .opened 0] }
     s.inReset = false ∧ s.hold.state = .clear ∧ s.quiescing = false ∧ s.stall = none ∧
     (∃ e ∈ s.timebase.step.events, s.groups[(0 : GroupId)].source.matches e = true) ∧
     (∀ h : GroupId, h ≠ 0 → ∀ e ∈ s.timebase.step.events, s.groups[h].source.matches e = false) ∧
     s.groups[(0 : GroupId)].dividerCount + 1 = s.groups[(0 : GroupId)].divider ∧
     s.groups[(0 : GroupId)].slot = none ∧ 0 < s.openCount 0) ∧
    (let s := zeroNext 1 (some (slot .draining))
     s.inReset = false ∧ s.hold.state = .clear ∧ s.quiescing = false ∧ s.stall = none ∧
     (∃ e ∈ s.timebase.step.events, s.groups[(0 : GroupId)].source.matches e = true) ∧
     (∀ h : GroupId, h ≠ 0 → ∀ e ∈ s.timebase.step.events, s.groups[h].source.matches e = false) ∧
     s.groups[(0 : GroupId)].dividerCount + 1 = s.groups[(0 : GroupId)].divider ∧
     s.groups[(0 : GroupId)].slot = some (slot .draining)) := by decide

/-- An event at the divider of a group with nothing staged. -/
theorem test_witness_TriggerSealsOrOverruns_empty :
    let s := zeroNext 1 none
    s.inReset = false ∧ s.hold.state = .clear ∧ s.quiescing = false ∧ s.stall = none ∧
    (∃ e ∈ s.timebase.step.events, s.groups[(0 : GroupId)].source.matches e = true) ∧
    (∀ h : GroupId, h ≠ 0 → ∀ e ∈ s.timebase.step.events, s.groups[h].source.matches e = false) ∧
    s.groups[(0 : GroupId)].dividerCount + 1 = s.groups[(0 : GroupId)].divider ∧
    s.groups[(0 : GroupId)].slot = none ∧ s.openCount 0 = 0 ∧ s.groups[(0 : GroupId)].pendingRetire = false := by decide

/-- At the limit and one short of it. -/
theorem test_witness_StalledWriteExpires :
    (let s := { stalled with stallLimit := 1 }
     s.inReset = false ∧ s.timebase.running = false ∧ s.hold.state ≠ .filtering ∧ s.stall = some waiting ∧
     s.stallLimit ≤ min 65535 (waiting.elapsed + 1)) ∧
    (let s := { stalled with stallLimit := 2 }
     s.inReset = false ∧ s.timebase.running = false ∧ s.hold.state ≠ .filtering ∧ s.stall = some waiting ∧
     min 65535 (waiting.elapsed + 1) < s.stallLimit) := by decide

theorem test_witness_SyncArrivalsTaken :
    State.reset.inReset = false ∧ State.reset.timebase.syncMode = .ignore ∧
    ({ Timebase.reset with syncMode := .event } : Timebase).syncMode = .event ∧
    (let t : Timebase := { Timebase.reset with syncMode := .restart }
     t.syncMode = .restart ∧ t.running = false) ∧
    (let t := { (running .up 2 .up).timebase with syncMode := .restart }
     t.syncMode = .restart ∧ t.running = true) := by decide

/-- Group 0 with source SYNC and the given divider and sealed slot, SYNC_MODE EVENT; and RESTART, RUNNING, source ZERO. -/
def syncNext (n : Nat) (sl : Option SealedSlot) : State :=
  withGroup { State.reset with timebase := { Timebase.reset with syncMode := .event } }
    { Group.reset with source := .sync, divider := n, slot := sl }

/-- A SYNC event short of the divider, under a hold, and at the divider, its slot free, with an
entry and with none, and occupied; a restart's ZERO. -/
theorem test_witness_SyncArrivalsTaken_delivered :
    (let s := syncNext 2 none
     s.inReset = false ∧ s.timebase.syncMode = .event ∧ s.hold.state ≠ .held ∧ s.quiescing = false ∧
     (∀ g : GroupId, (∃ e ∈ ([.sync] : List TbEvent), s.groups[g].source.matches e = true) →
       s.groups[g].dividerCount + 1 < s.groups[g].divider)) ∧
    (let s := { syncNext 1 none with hold := held.hold }
     s.timebase.syncMode = .event ∧ s.hold.state = .held) ∧
    (let s := { syncNext 1 none with pool := [entry .opened 0] }
     s.hold.state ≠ .held ∧ s.quiescing = false ∧ s.stall = none ∧
     (∃ e ∈ ([.sync] : List TbEvent), s.groups[(0 : GroupId)].source.matches e = true) ∧
     (∀ h : GroupId, h ≠ 0 → ∀ e ∈ ([.sync] : List TbEvent), s.groups[h].source.matches e = false) ∧
     s.groups[(0 : GroupId)].dividerCount + 1 = s.groups[(0 : GroupId)].divider ∧
     s.groups[(0 : GroupId)].slot = none ∧ 0 < s.openCount 0) ∧
    (let s := syncNext 1 none
     s.groups[(0 : GroupId)].slot = none ∧ s.openCount 0 = 0 ∧ s.groups[(0 : GroupId)].pendingRetire = false) ∧
    (syncNext 1 (some (slot .draining))).groups[(0 : GroupId)].slot = some (slot .draining) ∧
    (let s := { zeroNext 1 none with timebase := { (running .up 3 .up).timebase with syncMode := .restart } }
     s.timebase.syncMode = .restart ∧ s.timebase.running = true ∧
     (∃ e ∈ ([.sync, .zero] : List TbEvent), s.groups[(0 : GroupId)].source.matches e = true) ∧
     (∀ h : GroupId, h ≠ 0 → ∀ e ∈ ([.sync, .zero] : List TbEvent), s.groups[h].source.matches e = false)) := by decide

theorem test_witness_LineFiltersAndTrips :
    State.reset.inReset = false ∧ State.reset.stall = none ∧ State.reset.hold.state = .clear ∧ State.reset.hold.filter ≠ 0 ∧
    ({ Hold.reset with filter := 0 } : Hold).filter = 0 ∧ held.inReset = false ∧ held.hold.state ≠ .clear ∧
    held.hold.state ≠ .filtering ∧ ({ Hold.reset with state := .filtering } : Hold).state = .filtering := by decide

/-- The tick that completes the filter, and the one before it. -/
theorem test_witness_FilterCompletesIntoHeld :
    (let s := { State.reset with hold := { Hold.reset with state := .filtering, counter := 7 } }
     s.inReset = false ∧ s.timebase.running = false ∧ s.stall = none ∧ s.hold.state = .filtering ∧
     s.hold.filter ≤ s.hold.counter + 1) ∧
    (let s := { State.reset with hold := { Hold.reset with state := .filtering, counter := 6 } }
     s.inReset = false ∧ s.timebase.running = false ∧ s.stall = none ∧ s.hold.state = .filtering ∧
     s.hold.counter + 1 < s.hold.filter) := by decide

theorem test_witness_HoldSetEntersHeld :
    ((opened held).fresh = true ∧ (opened held).hold.state = .held) ∧
    ((opened State.reset).fresh = true ∧ (opened State.reset).hold.state ≠ .held ∧
      (opened State.reset).stall = none) := by decide

/-- A stalled write of a DISCARD group and of a FREEZE group. -/
theorem test_witness_HoldSetEntersHeld_stalled :
    (let s := opened (withGroup stalled { Group.reset with quota := 1, holdPolicy := .discard })
     s.fresh = true ∧ s.hold.state ≠ .held ∧ s.stall = some waiting ∧
     s.groups[s.regions[waiting.region].group].holdPolicy = .discard) ∧
    (let s := opened stalled
     s.fresh = true ∧ s.hold.state ≠ .held ∧ s.stall = some waiting ∧
     s.groups[s.regions[waiting.region].group].holdPolicy = .freeze) := by decide

theorem test_witness_HoldReleaseAnswered :
    ((opened State.reset).fresh = true ∧ (opened State.reset).hold.state = .clear) ∧
    (let s := opened { State.reset with hold := { Hold.reset with state := .filtering } }
     s.fresh = true ∧ s.hold.state = .filtering) ∧
    (let s := opened { held with hldLow := true }
     s.fresh = true ∧ s.hold.state = .held ∧ s.hldLow = true) ∧
    (let s := opened held
     s.fresh = true ∧ s.hold.state = .held ∧ s.hldLow = false ∧
     ∀ g : GroupId, s.groups[g].pendingRetire = false) := by decide

/-- A part HELD with a retire seal pending at group 0, which holds the given entries. -/
def pendingHeld (l : List Entry) : State :=
  opened (withGroup { held with pool := l } { Group.reset with pendingRetire := true })

/-- A retire seal pending at the release: of a generation with an entry, of an empty one, and while quiescing. -/
theorem test_witness_HoldReleaseAnswered_pending :
    (let s := pendingHeld [entry .opened 0]
     s.fresh = true ∧ s.hold.state = .held ∧ s.hldLow = false ∧ s.quiescing = false ∧ s.stall = none ∧
     s.groups[(0 : GroupId)].pendingRetire = true ∧ s.groups[(0 : GroupId)].slot = none ∧
     (∀ h : GroupId, h ≠ 0 → s.groups[h].pendingRetire = false ∨ s.groups[h].slot ≠ none) ∧ 0 < s.openCount 0) ∧
    (let s := pendingHeld []
     s.fresh = true ∧ s.groups[(0 : GroupId)].pendingRetire = true ∧ s.openCount 0 = 0) ∧
    { pendingHeld [] with quiescing := true }.quiescing = true := by decide

theorem test_witness_ChipSelectBoundsFrames : State.reset.inReset = false ∧ State.reset.port.rx = .idle := by decide

theorem test_witness_RequestBytesNameTheirFrame : (BadRequest.kind 0x10).wellFormed = true := by decide

/-- A frame of more than one byte, and a bad kind. -/
theorem test_witness_ClockedRequestIsTaken :
    (opened State.reset).fresh = true ∧ (BadRequest.actionCode 0).wellFormed = true ∧
    ([0x15] : List Byte) ≠ [] ∧ ([0x15] : List Byte) <+: (Frame.timerStart 0).bytes ∧
    ([0x15] : List Byte) ≠ (Frame.timerStart 0).bytes := by decide

theorem test_witness_RepliesAreShiftedOut :
    (let s := go .status (opened State.reset)
     s.inReset = false ∧ s.port.rx = .pad) ∧
    (let s := go (.sclkByte 0) (go .status (opened State.reset))
     s.inReset = false ∧ s.port.rx = .reply ∧ s.port.reply[s.port.sent]? = some 1) ∧
    ({ Port.reset with rx := .spent } : Port).rx = .spent ∧ Port.reset.rx = .idle := by decide

/-- The last register of each gap, and the first and last counter. -/
theorem test_witness_RegisterReadsReply :
    (opened State.reset).fresh = true ∧ (opened State.reset).hold.cause = .line ∧
    (0x23 : Byte).toNat = 0x20 + (3 : GroupId).val ∧ (0x30 : Byte).toNat = 0x30 + (0 : GroupId).val ∧
    (0x20 : Byte).toNat = 0x20 + (0 : Fin 26).val ∧ (0x39 : Byte).toNat = 0x20 + (25 : Fin 26).val ∧
    (0x09 < (0x0F : Byte).toNat ∧ (0x0F : Byte).toNat < 0x10) ∧
    (0x18 < (0x1F : Byte).toNat ∧ (0x1F : Byte).toNat < 0x20) ∧ 0x39 < (0x3A : Byte).toNat := by decide

theorem test_witness_TimebaseRegisterWrites :
    (opened (running .up 2 .up)).fresh = true ∧ (opened (running .up 2 .up)).timebase.running = true ∧
    (opened State.reset).fresh = true ∧ (opened State.reset).timebase.running = false ∧
    3 ≤ (3 : BitVec 32).toNat ∧ (2 : BitVec 32).toNat = TimerMode.code .oneshot ∧
    (2 : BitVec 32).toNat = SyncMode.code .restart ∧ (256 : BitVec 32).toNat ∈ [1, 2, 4, 8, 16, 32, 64, 128, 256] ∧
    (0 : BitVec 32).toNat ∉ [1, 2, 4, 8, 16, 32, 64, 128, 256] ∧
    (1 ≤ (1 : BitVec 32).toNat ∧ (65535 : BitVec 32).toNat ≤ 65535) ∧ 65535 < (65536 : BitVec 32).toNat := by decide

theorem test_witness_OtherRegisterWrites :
    (opened State.reset).fresh = true ∧ (0 : BitVec 32).toNat ∈ [0, 4, 8, 16, 32] ∧
    (33 : BitVec 32).toNat ∉ [0, 4, 8, 16, 32] ∧ (0x7F : BitVec 32).toNat < 2 ^ 7 ∧ 2 ^ 7 ≤ (0x80 : BitVec 32).toNat ∧
    (1 ≤ (32 : BitVec 32).toNat ∧ (32 : BitVec 32).toNat ≤ 32) ∧ 32 < (33 : BitVec 32).toNat ∧
    (0xFFFF : BitVec 32).toNat < 2 ^ 16 ∧ 2 ^ 16 ≤ (0x10000 : BitVec 32).toNat ∧ 0x09 < (0x0A : Byte).toNat := by decide

/-- The largest window at the last base it may have, and a size code too small. -/
theorem test_witness_RegionRecordsWritten :
    (opened staging).fresh = true ∧ 8 ≤ (8 : Byte).toNat ∧ (0 : Byte).toNat = (0 : RegionId).val ∧
    (opened staging).regions[(0 : RegionId)].state ≠ .off ∧ (7 : Byte).toNat = (7 : RegionId).val ∧
    (opened staging).regions[(7 : RegionId)].state = .off ∧ (7 : Byte).toNat < 8 ∧
    (8 ≤ (24 : Byte).toNat ∧ (24 : Byte).toNat ≤ 24 ∧ (0xFF000000 : Addr).toNat % 2 ^ (24 : Byte).toNat = 0 ∧
      (3 : Byte).toNat = (3 : GroupId).val ∧ (1 : Byte).toNat = View.code .staged ∧
      (1 : Byte).toNat = FullPolicy.code .reject) := by decide

theorem test_witness_RegionRecordsRead :
    (opened State.reset).fresh = true ∧ 8 ≤ (8 : Byte).toNat ∧ (7 : Byte).toNat = (7 : RegionId).val := by decide

theorem test_witness_GroupRecordsWrittenAndRead :
    (opened held).fresh = true ∧ 4 ≤ (4 : Byte).toNat ∧ (0 : Byte).toNat = (0 : GroupId).val ∧
    8 ≤ (8 : Byte).toNat ∧ (7 : Byte).toNat = Source.code .sync ∧ (1 : Byte).toNat = HoldPolicy.code .discard ∧
    (1 ≤ (16 : Byte).toNat ∧ (16 : Byte).toNat ≤ 16) ∧ (1 ≤ (64 : Byte).toNat ∧ (64 : Byte).toNat ≤ 64) ∧
    (opened held).hold.state = .held ∧ HoldPolicy.discard ≠ (opened held).groups[(0 : GroupId)].holdPolicy ∧
    (let s := opened { staging with pool := [entry .opened 0, entry .opened 1] }
     s.fresh = true ∧ s.hold.state ≠ .held ∧ (1 : Byte).toNat < s.openCount 0 ∧ s.openCount 0 ≤ (2 : Byte).toNat ∧
     s.stall = none) := by decide

/-- A raised quota past a stalled write. -/
theorem test_witness_GroupRecordsWrittenAndRead_raised :
    let s := opened stalled
    s.fresh = true ∧ s.hold.state ≠ .held ∧ s.openCount 0 ≤ (2 : Byte).toNat ∧
    s.groups[(0 : GroupId)].quota < (2 : Byte).toNat ∧ s.stall = some waiting := by decide

theorem test_witness_WatchRecordsWrittenAndRead :
    (opened State.reset).fresh = true ∧ 4 ≤ (4 : Byte).toNat ∧ (3 : Byte).toNat = (3 : Fin 4).val ∧
    3 ≤ (3 : Byte).toNat ∧ (2 : Byte).toNat = WatchKinds.code .both ∧ (16 : Byte).toNat ∈ [1, 4, 16] ∧
    (8 : Addr).toNat ≤ (8 : Addr).toNat ∧ (7 : Addr).toNat < (8 : Addr).toNat := by decide

theorem test_witness_TimerActionsByRunState :
    (opened State.reset).fresh = true ∧ (opened State.reset).timebase.running = false ∧
    (opened (running .updown 2 .down)).fresh = true ∧ (opened (running .updown 2 .down)).timebase.running = true := by
  decide

theorem test_witness_PublishSealsNamedGroups :
    (opened State.reset).fresh = true ∧ 16 ≤ (16 : Byte).toNat ∧ (15 : Byte).toNat < 16 ∧
    ((opened quiescing).fresh = true ∧ (opened quiescing).quiescing = true) ∧
    ((opened held).fresh = true ∧ (opened held).quiescing = false ∧ (opened held).hold.state = .held) ∧
    (1 : Byte) = BitVec.twoPow 8 (0 : GroupId).val ∧
    (let s := opened draining
     s.fresh = true ∧ s.quiescing = false ∧ s.hold.state ≠ .held ∧
     s.groups[(0 : GroupId)].slot = some (slot .draining)) ∧
    (let s := opened { staging with pool := [entry .opened 0] }
     s.fresh = true ∧ s.quiescing = false ∧ s.hold.state ≠ .held ∧ s.groups[(0 : GroupId)].slot = none ∧
     s.stall = none ∧ 0 < s.openCount 0) ∧
    (let s := opened staging
     s.fresh = true ∧ s.quiescing = false ∧ s.hold.state ≠ .held ∧ s.groups[(0 : GroupId)].slot = none ∧
     s.stall = none ∧ s.openCount 0 = 0 ∧ s.groups[(0 : GroupId)].pendingRetire = false) := by decide

/-- Group 0 with an entry, group 1 empty with a retire seal pending, group 2 draining, group 3 empty. -/
def mixed : State :=
  opened { staging with
    groups := (State.reset.groups.set 1 { Group.reset with pendingRetire := true }).set 2
      { Group.reset with slot := some (slot .draining) }
    pool := [entry .opened 0] }

/-- R74: a mask of 0 takes nothing and changes nothing; a mask that names all four groups takes 0, 1 and 3. -/
theorem test_witness_PublishSealsNamedGroups_masks :
    (mixed.fresh = true ∧ mixed.quiescing = false ∧ mixed.hold.state ≠ .held ∧ mixed.stall = none ∧
      (15 : Byte).toNat < 16) ∧
    go (.publish 0) mixed = mixed.replied .ack [0, 0] ∧
    (∀ g : GroupId, (11 : Byte).getLsbD g.val = true ↔
      (15 : Byte).getLsbD g.val = true ∧ mixed.groups[g].slot = none) ∧
    (11 : Byte).getLsbD (2 : GroupId).val = false ∧ 0 < mixed.openCount 0 ∧
    (mixed.openCount 1 = 0 ∧ mixed.groups[(1 : GroupId)].pendingRetire = true) ∧
    (mixed.openCount 3 = 0 ∧ mixed.groups[(3 : GroupId)].pendingRetire = false) := by decide

theorem test_witness_DiscardFreesNamedGroups :
    16 ≤ (16 : Byte).toNat ∧ (15 : Byte).toNat < 16 ∧
    ((opened quiescing).fresh = true ∧ (opened quiescing).quiescing = true) ∧
    ((opened staging).fresh = true ∧ (opened staging).quiescing = false) ∧ staging.stall = none := by decide

/-- `stalled` with region 0 in a state. -/
def stalledIn (r : RegionState) : State := { stalled with regions := staging.regions.set 0 { window with state := r } }

/-- The retry's cases: OFF, RETIRE_DRAIN, a merge, an allocation, and a failed offer without and with pressure sealing,
in STAGING and in RETIRE_WAIT, with room in the pool and with none. -/
theorem test_witness_DiscardFreesNamedGroups_retry :
    ((stalledIn .off).stall = some waiting ∧ (stalledIn .off).regions[waiting.region].group = 0 ∧
      (stalledIn .off).regions[waiting.region].state = .off) ∧
    (stalledIn .retireDrain).regions[waiting.region].state = .retireDrain ∧
    (let s := { stalledIn .staging with pool := [entry .opened 1] }
     s.regions[waiting.region].state = .staging ∧ s.findEntry 0 .opened (doubleword waiting.addr) ≠ none) ∧
    (let s := { stalledIn .retireWait with pool := [] }
     s.regions[waiting.region].state = .retireWait ∧ s.findEntry 0 .opened (doubleword waiting.addr) = none ∧
     s.pool.length < 64 ∧ s.openCount 0 < s.groups[(0 : GroupId)].quota) ∧
    ((stalledIn .staging).findEntry 0 .opened (doubleword waiting.addr) = none ∧
      (stalledIn .staging).groups[(0 : GroupId)].quota ≤ (stalledIn .staging).openCount 0 ∧
      (stalledIn .staging).groups[(0 : GroupId)].pressureSeal = false) ∧
    (let s := withGroup (stalledIn .retireWait) { Group.reset with quota := 1, pressureSeal := true }
     s.findEntry 0 .opened (doubleword waiting.addr) = none ∧ s.groups[(0 : GroupId)].pressureSeal = true ∧
     0 < s.openCount 0 ∧ s.hold.state ≠ .held ∧ s.quiescing = false ∧ s.groups[(0 : GroupId)].slot = none ∧
     1 ≤ s.groups[(0 : GroupId)].quota ∧ s.groups[(0 : GroupId)].quota ≤ s.openCount 0 ∧ s.pool.length < 64) ∧
    (let s := { stalledIn .staging with pool := List.replicate 64 (entry .opened 0) }
     s.findEntry 0 .opened (doubleword waiting.addr) = none ∧ 64 ≤ s.pool.length ∧ 0 < s.openCount 0) := by decide

theorem test_witness_RegionsEnabledAndRetired :
    8 ≤ (8 : Byte).toNat ∧ (0 : Byte).toNat = (0 : RegionId).val ∧ (1 : Byte).toNat = (1 : RegionId).val ∧
    ((opened quiescing).fresh = true ∧ (opened quiescing).quiescing = true) ∧
    (let s := opened { staging with regions := staging.regions.set 1 { window with state := .off } }
     s.fresh = true ∧ s.quiescing = false ∧ s.regions[(0 : RegionId)].state ≠ .off ∧
     s.regions[(1 : RegionId)].state = .off ∧
     ∃ q : RegionId, s.regions[q].state ≠ .off ∧ s.regions[(1 : RegionId)].overlaps s.regions[q] = true) ∧
    (let s := opened staging
     s.regions[(1 : RegionId)].state = .off ∧
     ∀ q : RegionId, s.regions[q].state ≠ .off → s.regions[(1 : RegionId)].overlaps s.regions[q] = false) ∧
    (let s := opened { staging with hold := held.hold }
     s.fresh = true ∧ s.regions[(0 : RegionId)].state = .staging ∧ s.hold.state = .held) ∧
    (let s := opened draining
     s.fresh = true ∧ s.quiescing = false ∧ s.regions[(0 : RegionId)].state = .staging ∧ s.hold.state ≠ .held ∧
     s.groups[s.regions[(0 : RegionId)].group].slot = some (slot .draining)) ∧
    (let s := opened staging
     s.fresh = true ∧ s.quiescing = false ∧ s.regions[(0 : RegionId)].state = .staging ∧ s.hold.state ≠ .held ∧
     s.groups[s.regions[(0 : RegionId)].group].slot = none ∧ s.openCount s.regions[(0 : RegionId)].group = 0 ∧
     s.stall = none) := by decide

/-- A retire of a group with an entry. -/
theorem test_witness_RegionsEnabledAndRetired_entries :
    let s := opened { staging with pool := [entry .opened 0] }
    s.fresh = true ∧ s.quiescing = false ∧ s.regions[(0 : RegionId)].state = .staging ∧ s.hold.state ≠ .held ∧
    s.groups[s.regions[(0 : RegionId)].group].slot = none ∧ 0 < s.openCount s.regions[(0 : RegionId)].group ∧
    s.stall = none := by decide

theorem test_witness_LogFlagsAndCountersCleared :
    (opened State.reset).fresh = true ∧ (opened State.reset).log.records = [] ∧
    (let s := opened (State.reset.logRecord 0 State.reset.now (.holdOff 2))
     s.fresh = true ∧ s.log.records =
       { index := 0, stamp := State.reset.now, gap := 0, gapPresent := false, body := .holdOff 2 } :: []) := by decide

theorem test_witness_LogRecordLayout :
    64 ≤ 64 ∧ LogRecord.bytes ⟨0, State.reset.now, 0, false, .sealed 7 64 .retire 0⟩ =
      [2, 0, 0, 0, 0, 0, 0, 0, 7, 0, 64, 3, 0, 0, 0, 0] := by decide

/-- Tables 10-10 and 10-11, by hand: OVERRUN, DRAIN_FAULT, HOLD_ON and HOLD_OFF. -/
theorem test_log_record_bytes :
    LogRecord.bytes ⟨2, State.reset.now, 3, true, .overrun 7 .ready⟩ = [4, 0x42, 0, 0, 0, 0, 0, 0, 7, 0, 2, 0, 0, 0, 3, 0] ∧
    LogRecord.bytes ⟨1, State.reset.now, 0, false, .drainFault 0x20000008 7⟩ =
      [5, 1, 0, 0, 0, 0, 0, 0, 8, 0, 0, 0x20, 7, 0, 0, 0] ∧
    LogRecord.bytes ⟨0, State.reset.now, 0, false, .holdOn 64 .software⟩ =
      [6, 0, 0, 0, 0, 0, 0, 0, 64, 1, 0, 0, 0, 0, 0, 0] ∧
    LogRecord.bytes ⟨0, State.reset.now, 0, false, .holdOff 2⟩ = [7, 0, 0, 0, 0, 0, 0, 0, 2, 0, 0, 0, 0, 0, 0, 0] := by
  decide

theorem test_witness_DatapathResetBeginsAQuiesce :
    ((opened quiescing).fresh = true ∧ (opened quiescing).quiescing = true) ∧
    (let s := opened queued
     s.fresh = true ∧ s.quiescing = false ∧ s.forwardQueue ≠ [] ∧ s.stall = none) ∧
    (let s := opened { stalled with channel := (go .arbiterGrant draining).channel }
     s.fresh = true ∧ s.quiescing = false ∧ s.channel ≠ none ∧ s.stall = some waiting) ∧
    (let s := opened stalled
     s.fresh = true ∧ s.quiescing = false ∧ s.stall = some waiting ∧ s.forwardQueue = [] ∧ s.channel = none ∧
     (∀ t : UTag, s.outstanding[t] = none) ∧ (∀ d : Fin 4, s.drainTags[d] = none)) ∧
    (let s := opened draining
     s.fresh = true ∧ s.quiescing = false ∧ s.stall = none ∧ s.forwardQueue = [] ∧ s.channel = none ∧
     (∀ t : UTag, s.outstanding[t] = none) ∧ (∀ d : Fin 4, s.drainTags[d] = none)) := by decide

theorem test_witness_LastStepEndsTheQuiesce :
    (let s := { outstanding .write none with quiescing := true }
     s.inReset = false ∧ s.quiescing = true ∧ ∃ t : UTag, s.outstanding[t] ≠ none) ∧
    (let s := { draining with quiescing := true }
     s.inReset = false ∧ s.quiescing = true ∧ s.forwardQueue = [] ∧ s.channel = none ∧
     (∀ t : UTag, s.outstanding[t] = none) ∧ (∀ d : Fin 4, s.drainTags[d] = none) ∧
     s.groups[(0 : GroupId)].slot ≠ none) := by decide

theorem test_witness_ProbeAndStatusReply :
    (opened draining).fresh = true ∧
    ((opened draining).pool.find? fun e => decide (e.role = .opened ∧ e.addr = doubleword 0x20000007)) = none ∧
    ((opened draining).pool.find? fun e => decide (e.role = .sealed ∧ e.addr = doubleword 0x20000007)) =
      some (entry .sealed 0) := by decide

/-- A sound state with something in it: two OPEN entries of one group. -/
def busy : State := { staging with pool := [entry .opened 0, entry .opened 1], pending := [.tick] }

theorem test_witness_StepsKeepThePool :
    busy.PoolBounded ∧ busy.ArrivalsInOrder ∧ busy.OneOpenEntry ∧ ∃ t, step busy = .next t := by
  refine ⟨⟨by decide, by decide⟩, ?_, ?_, _, rfl⟩
  · unfold State.ArrivalsInOrder
    decide
  · unfold State.OneOpenEntry
    decide

theorem test_witness_StepsKeepWindowsApart : busy.WindowsApart ∧ ∃ t, step busy = .next t := by
  refine ⟨?_, _, rfl⟩
  unfold State.WindowsApart
  decide

theorem test_witness_StepsKeepTheCountBounded :
    ({ running .updown 2 .up with pending := [.peak] } : State).timebase.Bounded ∧
    ∃ t, step { running .updown 2 .up with pending := [.peak] } = .next t := by
  refine ⟨⟨?_, ?_, ?_, ?_, ?_⟩, _, rfl⟩ <;> decide

theorem test_witness_StepsKeepCountsBounded :
    busy.LogBounded ∧ busy.CountersBounded ∧ busy.PlacesBounded ∧ busy.DividersBelow ∧ ∃ t, step busy = .next t := by
  refine ⟨?_, ?_, ?_, ?_, _, rfl⟩
  · unfold State.LogBounded
    decide
  · unfold State.CountersBounded
    decide
  · unfold State.PlacesBounded
    decide
  · unfold State.DividersBelow
    decide

theorem test_witness_StepsFollowTheLine :
    ({ State.reset with pending := [.hldNAsserted] } : State).LineFollowed ∧
    ∃ t, step { State.reset with pending := [.hldNAsserted] } = .next t := by
  refine ⟨⟨?_, ?_, ?_⟩, _, rfl⟩ <;> decide

end Sys2Proof.Tests
end

/-! Region records read and written over the management port (R2, R3). -/

namespace Sys2Proof.Machine

/-! ### Taking a frame (R172) -/

/-- A refused frame changes no state and is answered without a payload. -/
theorem takeFrame_of_refuse {s : State} {f : Frame} {st : Status} (h : s.hand f = s.refuse st) :
    s.takeFrame f = s.replied st [] := by
  unfold State.takeFrame
  rw [h]
  rfl

/-- An accepted frame is answered ACK on the state its owning block left. -/
theorem takeFrame_of_accept {s t : State} {f : Frame} {payload : List Byte} (h : s.hand f = t.accept payload) :
    s.takeFrame f = t.replied .ack payload := by
  unfold State.takeFrame
  rw [h]
  rfl

theorem exec_recordReadRegion_fresh {s : State} (h : s.fresh = true) (i : Byte) :
    exec (.recordReadRegion i) s = .next (s.takeFrame (.readRegion i)) :=
  congrArg Host.Outcome.next (frameRow_fresh h _)

theorem exec_recordWriteRegion_fresh {s : State} (h : s.fresh = true) (i : Byte) (f : RegionFields) :
    exec (.recordWriteRegion i f) s = .next (s.takeFrame (.writeRegion i f)) :=
  congrArg Host.Outcome.next (frameRow_fresh h _)

/-! ### The encodings of a region's fields (Table 10-6) -/

@[simp] theorem decodeView_code (v : View) : decodeView v.code = some v := by cases v <;> rfl

@[simp] theorem decodePolicy_code (p : FullPolicy) : decodePolicy p.code = some p := by cases p <;> rfl

@[simp] theorem decodeGroupId_val (g : GroupId) : decodeGroupId g.val = some g := dif_pos g.isLt

theorem decodeView_eq_none {n : Nat} (h : 2 ≤ n) : decodeView n = none := by
  unfold decodeView
  split
  · omega
  · omega
  · rfl

theorem decodePolicy_eq_none {n : Nat} (h : 2 ≤ n) : decodePolicy n = none := by
  unfold decodePolicy
  split
  · omega
  · omega
  · rfl

theorem decodeGroupId_eq_none {n : Nat} (h : 4 ≤ n) : decodeGroupId n = none := dif_neg (by omega)

/-! ### The five carried fields (R2 test 3) -/

/-- A window that R2 allows: a size code of 8..24 and a base aligned to the size. -/
def RegionFields.WindowLegal (f : RegionFields) : Prop :=
  8 ≤ f.sizeCode.toNat ∧ f.sizeCode.toNat ≤ 24 ∧ f.base.toNat % 2 ^ f.sizeCode.toNat = 0

theorem RegionFields.decode_of_not_windowLegal {f : RegionFields} (h : ¬ RegionFields.WindowLegal f) :
    RegionFields.decode f = none := if_neg h

/-- With a legal window the codes of the other three fields decide. -/
theorem RegionFields.decode_of_windowLegal {f : RegionFields} (h : RegionFields.WindowLegal f) :
    RegionFields.decode f = (decodeGroupId f.group.toNat).bind fun g => (decodeView f.view.toNat).bind fun v =>
      (decodePolicy f.policy.toNat).map fun p =>
        { base := f.base, sizeCode := f.sizeCode.toNat, group := g, view := v, policy := p, state := .off } := by
  refine (if_pos h).trans ?_
  cases decodeGroupId f.group.toNat with
  | none => rfl
  | some g =>
    cases decodeView f.view.toNat with
    | none => rfl
    | some v => cases decodePolicy f.policy.toNat <;> rfl

/-- One field out of its range refuses the record. -/
theorem RegionFields.decode_eq_none {f : RegionFields}
    (h : f.sizeCode.toNat < 8 ∨ 24 < f.sizeCode.toNat ∨ f.base.toNat % 2 ^ f.sizeCode.toNat ≠ 0 ∨
      4 ≤ f.group.toNat ∨ 2 ≤ f.view.toNat ∨ 2 ≤ f.policy.toNat) : RegionFields.decode f = none := by
  by_cases hw : RegionFields.WindowLegal f
  · rw [decode_of_windowLegal hw]
    obtain ⟨hlow, hhigh, haligned⟩ := hw
    obtain h | h | h | h | h | h := h
    · omega
    · omega
    · exact absurd haligned h
    · simp [decodeGroupId_eq_none h]
    · simp [decodeView_eq_none h]
    · simp [decodePolicy_eq_none h]
  · exact decode_of_not_windowLegal hw

theorem RegionFields.decode_eq_some {f : RegionFields} {g : GroupId} {v : View} {p : FullPolicy}
    (hw : RegionFields.WindowLegal f) (hg : f.group.toNat = g.val) (hv : f.view.toNat = v.code)
    (hp : f.policy.toNat = p.code) :
    RegionFields.decode f = some
      { base := f.base, sizeCode := f.sizeCode.toNat, group := g, view := v, policy := p, state := .off } := by
  rw [decode_of_windowLegal hw, hg, hv, hp]
  simp

/-! ### The region table takes a request (R2, R3) -/

section
variable {s : State} {i : Byte} {r : RegionId} {f : RegionFields}

theorem takeReadRegion_of_unnamed (h : 8 ≤ i.toNat) : s.takeReadRegion i = s.refuse .nakRange :=
  dif_neg (by omega)

theorem takeReadRegion_of_named (h : i.toNat = r.val) : s.takeReadRegion i = s.accept s.regions[r].bytes := by
  simp [State.takeReadRegion, h]

theorem takeWriteRegion_of_unnamed (h : 8 ≤ i.toNat) : s.takeWriteRegion i f = s.refuse .nakRange :=
  dif_neg (by omega)

theorem takeWriteRegion_of_active (h : i.toNat = r.val) (hs : s.regions[r].state ≠ .off) :
    s.takeWriteRegion i f = s.refuse .nakState := by
  rw [Fin.getElem_fin] at hs
  simp [State.takeWriteRegion, h, hs]

theorem takeWriteRegion_of_refused (h : i.toNat = r.val) (hs : s.regions[r].state = .off)
    (hf : RegionFields.decode f = none) :
    s.takeWriteRegion i f = s.refuse .nakRange := by
  rw [Fin.getElem_fin] at hs
  simp [State.takeWriteRegion, h, hs, hf]

theorem takeWriteRegion_of_decoded {record : Region} (h : i.toNat = r.val) (hs : s.regions[r].state = .off)
    (hf : RegionFields.decode f = some record) :
    s.takeWriteRegion i f = State.accept { s with regions := s.regions.set r record } [] := by
  rw [Fin.getElem_fin] at hs
  simp [State.takeWriteRegion, h, hs, hf]

end

end Sys2Proof.Machine

namespace Sys2Proof.Proofs

open Sys2Proof.Machine

/-- Settles O42: each test of R2 in its order is one case of what the region table takes. -/
theorem regionRecordsWritten : Obligations.RegionRecordsWritten := by
  intro s i f hfresh
  rw [exec_recordWriteRegion_fresh hfresh]
  refine ⟨fun hi => ?unnamed, fun r hi hs => ?active, fun r hi hs => ⟨fun hf => ?refused, ?replaced⟩⟩
  case unnamed => exact congrArg _ (takeFrame_of_refuse (takeWriteRegion_of_unnamed hi))
  case active => exact congrArg _ (takeFrame_of_refuse (takeWriteRegion_of_active hi hs))
  case refused =>
    exact congrArg _ (takeFrame_of_refuse (takeWriteRegion_of_refused hi hs (RegionFields.decode_eq_none hf)))
  case replaced =>
    intro g v p hlow hhigh haligned hg hv hp
    have hf := RegionFields.decode_eq_some ⟨hlow, hhigh, haligned⟩ hg hv hp
    exact congrArg _ (takeFrame_of_accept (takeWriteRegion_of_decoded hi hs hf))

/-- Settles O43: the codes of Table 10-6, and the two cases of R3. -/
theorem regionRecordsRead : Obligations.RegionRecordsRead := by
  refine ⟨by decide, fun s i hfresh => ?_⟩
  rw [exec_recordReadRegion_fresh hfresh]
  refine ⟨fun hi => ?unnamed, fun r hi => ?named⟩
  case unnamed => exact congrArg _ (takeFrame_of_refuse (takeReadRegion_of_unnamed hi))
  case named => exact congrArg _ (takeFrame_of_accept (takeReadRegion_of_named hi))

end Sys2Proof.Proofs

/-! PROBE and STATUS over the management port (R178, R179). -/

namespace Sys2Proof.Machine

theorem exec_probe_fresh {s : State} (h : s.fresh = true) (a : Addr) :
    exec (.probe a) s = .next (s.takeFrame (.probe a)) :=
  congrArg Host.Outcome.next (frameRow_fresh h _)

theorem exec_status_fresh {s : State} (h : s.fresh = true) : exec .status s = .next (s.takeFrame .status) :=
  congrArg Host.Outcome.next (frameRow_fresh h _)

/-- PROBE is answered ACK on the unchanged state. -/
theorem takeFrame_probe (s : State) (a : Addr) :
    s.takeFrame (.probe a) = s.replied .ack (s.probeBytes a) := takeFrame_of_accept rfl

/-- STATUS is answered ACK on the unchanged state. -/
theorem takeFrame_status (s : State) :
    s.takeFrame .status = s.replied .ack s.statusBytes := takeFrame_of_accept rfl

/-! ### The PROBE reply (Table 10-8) -/

theorem probeEntry_eq_find (s : State) (r : Role) (a : Addr) :
    s.probeEntry r a = s.pool.find? fun e => decide (e.role = r ∧ e.addr = doubleword a) := by
  simp [State.probeEntry]

/-- The presence byte: the OPEN entry is bit 0, the SEALED entry bit 1. -/
theorem presenceByte_eq_or (o c : Bool) :
    0#6 ++ boolBit c ++ boolBit o = (if o then 1#8 else 0#8) ||| (if c then 2#8 else 0#8) := by
  revert o c
  decide

/-- The reply's bytes from the two entries alone: the group byte is the OPEN entry's, else the SEALED entry's. -/
def probeReply (o c : Option Entry) : List Byte :=
  [match o, c with
    | some e, _ => byteOf e.group.val
    | none, some e => byteOf e.group.val
    | none, none => 0,
   (if o.isSome then 1#8 else 0#8) ||| (if c.isSome then 2#8 else 0#8), probeMask o, probeMask c] ++
  (probeData o).toList ++ (probeData c).toList

theorem probeBytes_eq_probeReply (s : State) (a : Addr) :
    s.probeBytes a = probeReply (s.probeEntry .opened a) (s.probeEntry .sealed a) := by
  unfold State.probeBytes probeReply
  rw [← presenceByte_eq_or]
  cases s.probeEntry .opened a with
  | some e => rfl
  | none => cases s.probeEntry .sealed a <;> rfl

/-! ### The STATUS reply (Table 10-9) -/

/-- The states' byte is the union of its fields, each at its place. -/
theorem statesByte_eq_or (stall : BitVec 2) (quiesce run : Bool) (hold : BitVec 2) :
    0#2 ++ stall ++ boolBit quiesce ++ boolBit run ++ hold =
      hold.setWidth 8 ||| (if run then 4#8 else 0#8) ||| (if quiesce then 8#8 else 0#8) |||
        (stall.setWidth 8 <<< 4) := by
  revert stall quiesce run hold
  decide

/-- The hold code at its place in the states' byte (bits 1:0). -/
theorem holdCode_widened (h : HoldState) :
    h.code.setWidth 8 = match h with | .clear => 0#8 | .filtering => 1#8 | .held => 2#8 := by
  cases h <;> rfl

/-- The stall code at its place in the states' byte (bits 5:4). -/
theorem stallCode_shifted (x : Option StalledWrite) :
    (stallCode x).setWidth 8 <<< 4 =
      match x with | none => 0#8 | some w => if w.cause = .noEntry then 16#8 else 32#8 := by
  cases x with
  | none => rfl
  | some w =>
    simp only [stallCode]
    cases w.cause <;> rfl

end Sys2Proof.Machine

namespace Sys2Proof.Proofs

open Sys2Proof.Machine

/-- Settles O54: both frames are accepted on the state as it stands, and their replies are read field by field. -/
theorem probeAndStatusReply : Obligations.ProbeAndStatusReply := by
  intro s a o c hfresh
  refine ⟨fun ho hc => ?probe, ?status⟩
  case probe =>
    rw [← probeEntry_eq_find] at ho hc
    rw [exec_probe_fresh hfresh, takeFrame_probe, probeBytes_eq_probeReply, ho, hc]
    rfl
  case status =>
    rw [exec_status_fresh hfresh, takeFrame_status, State.statusBytes, statesByte_eq_or, holdCode_widened,
      stallCode_shifted]
    rfl

end Sys2Proof.Proofs

/-! What a command can do, said once (`exec_effect`): out of reset a chain of small changes (`Act`), each of which the
invariants see in few fields; in reset the lines are followed and nothing else is taken (R48, R49, R124, R151, R171). -/

namespace Sys2Proof.Machine

/-! ### Commands that name a frame -/

/-- A command that names a frame clocks the frame's request in (R170). -/
theorem exec_frame {c : Instr} {f : Frame} (h : Laws.FrameBytes.frameOf c = some f) (s : State) :
    exec c s = .next (s.frameRow f) := by
  cases c <;> cases h <;> rfl

/-- In a fresh frame a command that names a frame takes it (R170). -/
theorem exec_of_fresh {c : Instr} {f : Frame} {s : State} (hs : s.fresh = true)
    (h : Laws.FrameBytes.frameOf c = some f) : exec c s = .next (s.takeFrame f) := by
  rw [exec_frame h, frameRow_fresh hs]

/-! ### Commands while RST_N is asserted -/

theorem fresh_of_inReset {s : State} (h : s.inReset = true) : s.fresh = false := by
  simp [State.fresh, h]

theorem clockByte_of_inReset {s : State} (h : s.inReset = true) (b : Byte) : s.clockByte b = s := if_pos h

/-- A frame's bytes are ignored while RST_N is asserted (R171). -/
theorem frameRow_of_inReset {s : State} (h : s.inReset = true) (f : Frame) : s.frameRow f = s := by
  have clocked : ∀ l : List Byte, l.foldl State.clockByte s = s := by
    intro l
    induction l with
    | nil => rfl
    | cons b l ih => rw [List.foldl_cons, clockByte_of_inReset h, ih]
  unfold State.frameRow
  rw [fresh_of_inReset h]
  exact clocked f.bytes

theorem csFall_of_inReset {s : State} (h : s.inReset = true) : s.csFall = { s with csLow := true } :=
  if_neg (by simp [h])

theorem csRise_of_inReset {s : State} (h : s.inReset = true) : s.csRise = { s with csLow := false } := if_pos h

theorem tickOf_of_inReset {s : State} (h : s.inReset = true) (k : TbEvent) : s.tickOf k = s := by
  simp [State.tickOf, h]

/-- The commands that act while RST_N is asserted: the lines and the reset itself. -/
def linesAndReset : List Instr := [.hldNAsserted, .hldNDeasserted, .csNFall, .csNRise, .hardwareReset, .resetEnd]

/-- Every other command is silent while RST_N is asserted (R48, R49, R124, R151, R171; log 23). -/
theorem exec_of_inReset {c : Instr} {s : State} (h : s.inReset = true) (hc : c ∉ linesAndReset) :
    exec c s = .next s := by
  cases hf : Laws.FrameBytes.frameOf c with
  | some f => rw [exec_frame hf, frameRow_of_inReset h]
  | none =>
    cases c <;> simp only [Laws.FrameBytes.frameOf, reduceCtorEq] at hf
    case upstreamRequest tag k a z d => exact execUpstreamRequest_waits tag k a z d (by simp [State.uReady, h])
    case responseDelivered => exact if_pos h
    case arbiterGrant => exact if_pos (by simp [h])
    case downstreamRequestTaken => exact if_pos h
    case downstreamResponse tag st d => exact if_pos h
    case tick => exact if_pos h
    case limit => exact congrArg _ (tickOf_of_inReset h _)
    case zero => exact congrArg _ (tickOf_of_inReset h _)
    case peak => exact congrArg _ (tickOf_of_inReset h _)
    case markUp => exact congrArg _ (tickOf_of_inReset h _)
    case markDown => exact congrArg _ (tickOf_of_inReset h _)
    case stallTimeout => exact if_neg (by simp [h])
    case syncArrival => exact if_pos h
    case filterComplete => exact if_neg (by simp [h])
    case quiesceEnd => exact if_neg (by simp [h])
    case sclkByte b => exact congrArg _ (clockByte_of_inReset h b)
    all_goals exact absurd (by simp [linesAndReset]) hc

end Sys2Proof.Machine

namespace Sys2Proof.Proofs

open Sys2Proof.Machine

theorem next_ite {p : Prop} [Decidable p] {o q : Host.Outcome State Fault Refusal} (ho : ∃ t, o = .next t)
    (hq : ∃ t, q = .next t) : ∃ t, (if p then o else q) = .next t := by
  split
  · exact ho
  · exact hq

/-- Settles O1: the queue's front is what `step` matches on, and no arm of `exec` answers anything but a next state. -/
theorem frontCommandIsTaken : Obligations.FrontCommandIsTaken := by
  refine ⟨fun c rest s h => ?front, fun s h => ?idle, fun c s => ?next⟩
  case front => unfold step; rw [h]
  case idle => unfold step; rw [h]
  case next =>
    cases hf : Laws.FrameBytes.frameOf c with
    | some f => exact ⟨_, exec_frame hf s⟩
    | none =>
      cases c <;> simp only [Laws.FrameBytes.frameOf, reduceCtorEq] at hf
      case upstreamRequest => exact next_ite ⟨_, rfl⟩ ⟨_, rfl⟩
      case responseDelivered =>
        refine next_ite ⟨_, rfl⟩ ?_
        cases s.responses <;> exact ⟨_, rfl⟩
      case arbiterGrant =>
        refine next_ite ⟨_, rfl⟩ ?_
        rcases s.forwardQueue with _ | ⟨r, rest⟩ <;> rcases s.drainWrite with _ | ⟨g, d, e⟩
        · exact ⟨_, rfl⟩
        · exact ⟨_, rfl⟩
        · exact ⟨_, rfl⟩
        · exact next_ite ⟨_, rfl⟩ ⟨_, rfl⟩
      case downstreamRequestTaken => exact next_ite ⟨_, rfl⟩ ⟨_, rfl⟩
      case downstreamResponse =>
        refine next_ite ⟨_, rfl⟩ ?_
        split <;> exact ⟨_, rfl⟩
      case tick => exact next_ite ⟨_, rfl⟩ ⟨_, rfl⟩
      case stallTimeout => exact next_ite ⟨_, rfl⟩ ⟨_, rfl⟩
      case syncArrival =>
        refine next_ite ⟨_, rfl⟩ ?_
        cases s.timebase.syncMode
        · exact ⟨_, rfl⟩
        · exact ⟨_, rfl⟩
        · exact next_ite ⟨_, rfl⟩ ⟨_, rfl⟩
      case hldNAsserted => exact next_ite ⟨_, rfl⟩ ⟨_, rfl⟩
      case hldNDeasserted => exact next_ite ⟨_, rfl⟩ ⟨_, rfl⟩
      case filterComplete => exact next_ite ⟨_, rfl⟩ ⟨_, rfl⟩
      case resetEnd => exact next_ite ⟨_, rfl⟩ ⟨_, rfl⟩
      case quiesceEnd => exact next_ite ⟨_, rfl⟩ ⟨_, rfl⟩
      all_goals exact ⟨_, rfl⟩

/-- Settles O3: each command tests RST_N before it does anything else. -/
theorem resetSilencesCommands : Obligations.ResetSilencesCommands := by
  intro c s h
  exact ⟨exec_of_inReset h, if_pos h, if_pos h, congrArg _ (csFall_of_inReset h), congrArg _ (csRise_of_inReset h)⟩

end Sys2Proof.Proofs

/-! The changes a command is made of beside the moves of the shared operations, and every command as a chain of them
(`exec_effect`). An invariant is then proved once for each small change (`Kept`). -/

namespace Sys2Proof.Machine

/-! ### What the invariants see -/

/-- The fields that the invariants of the blocks read are the same. -/
structure SameBlocks (s t : State) : Prop where
  pool : t.pool = s.pool
  groups : t.groups = s.groups
  regions : t.regions = s.regions
  timebase : t.timebase = s.timebase
  records : t.log.records = s.log.records
  counters : t.events.counters = s.events.counters
  places : t.places = s.places
  pending : t.pending = s.pending

/-- The reset, the line and the hold state are the same too. -/
structure SameSeen (s t : State) : Prop extends SameBlocks s t where
  inReset : t.inReset = s.inReset
  hldLow : t.hldLow = s.hldLow
  holdState : t.hold.state = s.hold.state

/-- What the invariants of the blocks read. -/
def State.blocks (s : State) :=
  (s.pool, s.groups, s.regions, s.timebase, s.log.records, s.events.counters, s.places, s.pending)

/-- What the invariants read. -/
def State.seen (s : State) := (s.blocks, s.inReset, s.hldLow, s.hold.state)

theorem SameBlocks.of {s t : State} (h : t.blocks = s.blocks) : SameBlocks s t := by
  simp only [State.blocks, Prod.mk.injEq] at h
  obtain ⟨pool, groups, regions, timebase, records, counters, places, pending⟩ := h
  exact ⟨pool, groups, regions, timebase, records, counters, places, pending⟩

theorem SameSeen.of {s t : State} (h : t.seen = s.seen) : SameSeen s t := by
  simp only [State.seen, Prod.mk.injEq] at h
  obtain ⟨blocks, inReset, hldLow, holdState⟩ := h
  exact ⟨.of blocks, inReset, hldLow, holdState⟩

/-! ### One change -/

/-- One change that a command out of reset makes: a chain of moves, a change that no invariant sees, or one that some
invariant sees, with the test that the command makes before it. -/
inductive Act : State → State → Prop where
  | moves {s t : State} (h : Moves s t) : Act s t
  | unseen {s t : State} (h : SameSeen s t) : Act s t
  | takePlace (s : State) (h : s.places < 32) : Act s { s with places := s.places + 1 }
  | freePlace (s : State) : Act s { s with places := s.places - 1 }
  | issue (s : State) (f : Entry → Entry) (h : ∀ e, f e = e ∨ f e = { e with issued := true }) :
      Act s { s with pool := s.pool.map f }
  | emptyPool (s : State) : Act s { s with pool := [] }
  | advance (s : State) : Act s s.advance
  | retime (s : State) (tb : Timebase) (h : s.timebase.Bounded → tb.Bounded) : Act s { s with timebase := tb }
  | dropRecords (s : State) (l : Log) (h : l.records.length ≤ s.log.records.length) : Act s { s with log := l }
  | recount (s : State) (e : Events) (h : ∀ c : Fin 26, e.counters[c] ≤ s.events.counters[c]) :
      Act s { s with events := e }
  | writeGroup (s : State) (g : GroupId) (r : Group) (hq : s.openCount g ≤ r.quota)
      (hd : r.dividerCount < r.divider) : Act s (s.modGroup g fun _ => r)
  | writeRegion (s : State) (r : RegionId) (q : Region) (h : q.state = .off) :
      Act s { s with regions := s.regions.set r q }
  | enable (s : State) (r : RegionId)
      (h : ∀ q : RegionId, s.regions[q].active = true → s.regions[r].overlaps s.regions[q] = false) :
      Act s (s.modRegion r fun x => { x with state := .staging })
  | retire (s : State) (r : RegionId) (h : s.regions[r].state = .staging) :
      Act s (s.modRegion r fun x => { x with state := .retireWait })
  | endQuiesce (s : State) : Act s s.endQuiesce
  | release (s : State) (h : s.hldLow = false) : Act s { s with hold := { s.hold with state := .clear } }

/-- A chain of changes. -/
inductive Acts : State → State → Prop where
  | refl (s : State) : Acts s s
  | tail {s t u : State} (h : Acts s t) (k : Act t u) : Acts s u

theorem Acts.one {s t : State} (h : Act s t) : Acts s t := .tail (.refl s) h

theorem Acts.ofMoves {s t : State} (h : Moves s t) : Acts s t := .one (.moves h)

theorem Acts.ofMove {s t : State} (h : Move s t) : Acts s t := .ofMoves (.one h)

theorem Acts.ofSame {s t : State} (h : SameSeen s t) : Acts s t := .one (.unseen h)

theorem Acts.trans {s t u : State} (h : Acts s t) (k : Acts t u) : Acts s u := by
  induction k with
  | refl => exact h
  | tail _ k ih => exact .tail ih k

/-- What every change keeps, a chain of changes keeps. -/
theorem Acts.keeps {P : State → Prop} (hP : ∀ s t, Act s t → P s → P t) {s t : State} (h : Acts s t) (hs : P s) :
    P t := by
  induction h with
  | refl => exact hs
  | tail _ k ih => exact hP _ _ k ih

theorem Acts.foldl {α : Type} {f : State → α → State} (h : ∀ s x, Acts s (f s x)) (l : List α) (s : State) :
    Acts s (l.foldl f s) := by
  induction l generalizing s with
  | nil => exact .refl s
  | cons x l ih => exact (h s x).trans (ih (f s x))

/-! ### The memory ports -/

theorem acts_protocolError (s : State) (tag : UTag) (k : ReqKind) (b : Bool) : Acts s (s.protocolError tag k b) :=
  .trans (.ofSame (t := { s with responses := s.responses ++ [_] }) (.of rfl))
    (.ofMoves ((Moves.one (.bump _ .protocolErrors 1)).tail (.raise _ .protocol)))

theorem acts_enqueue (s : State) (tag : UTag) (k : ReqKind) (a : Addr) (z : Size) (d : Lanes) :
    Acts s (s.enqueue tag k a z d) := .ofSame (.of rfl)

theorem acts_enterStall (s : State) (tag : UTag) (a : Addr) (z : Size) (d : Lanes) (r : RegionId) (c : StallCause) :
    Acts s (s.enterStall tag a z d r c) := .ofSame (.of rfl)

theorem acts_routeWrite (s : State) (tag : UTag) (a : Addr) (z : Size) (d : Lanes) (r : RegionId) :
    Acts s (s.routeWrite tag a z d r).state := by
  unfold State.routeWrite
  dsimp only
  split
  · exact .ofMoves (moves_refuseWrite s tag)
  · split
    · exact acts_enqueue s _ _ _ _ _
    · exact acts_enterStall s _ _ _ _ _ _
    all_goals
      split
      · rename_i h
        exact .ofMoves ((Moves.one (.offer _ _ _ _ _ _ h)).tail (.respond _ _ _ _))
      · split
        · exact acts_enterStall s _ _ _ _ _ _
        · exact .ofMoves (moves_refuseWrite s tag)

theorem acts_routeRead (s : State) (tag : UTag) (a : Addr) (z : Size) (r : RegionId) :
    Acts s (s.routeRead tag a z r).state := by
  unfold State.routeRead
  dsimp only
  split
  · exact .ofMove (.respond s _ _ _)
  · exact .ofSame (.of rfl)

theorem acts_route (s : State) (tag : UTag) (k : ReqKind) (a : Addr) (z : Size) (d : Lanes) :
    Acts s (s.route tag k a z d).state := by
  have flight : Acts s { s with inFlight := s.inFlight.set tag true } := .ofSame (.of rfl)
  unfold State.route
  split
  · exact acts_protocolError s _ _ _
  · dsimp only
    split
    · exact flight.trans (acts_protocolError _ _ _ _)
    · split
      · exact flight.trans (acts_enqueue _ _ _ _ _ _)
      · split
        · exact flight.trans (acts_routeWrite _ _ _ _ _ _)
        · exact flight.trans (acts_routeRead _ _ _ _ _)

theorem acts_watchRequest (s : State) (tag : UTag) (k : ReqKind) (a : Addr) (z : Size) (p : Path) :
    Acts s (s.watchRequest tag k a z p) := by
  have counted : ∀ w n, Acts s (s.setWatchCounter w n) := fun w n => .ofSame (.of rfl)
  unfold State.watchRequest
  split
  · exact .refl s
  · split
    · exact (counted _ 0).trans (.ofMove (.log _ _ _ _))
    · exact counted _ _

theorem acts_upstreamRequest {s t : State} {tag : UTag} {k : ReqKind} {a : Addr} {z : Size} {d : Lanes}
    (h : execUpstreamRequest tag k a z d s = .next t) : Acts s t := by
  unfold execUpstreamRequest at h
  split at h
  · rename_i hr
    obtain ⟨-, -, -, hp⟩ := (uReady_iff s).1 hr
    have routed := (Acts.one (.takePlace s hp)).trans ((acts_route _ tag k a z d).trans
      (acts_watchRequest _ tag k a z (({ s with places := s.places + 1 } : State).route tag k a z d).path))
    dsimp only at h
    split at h
    · cases h; exact routed
    · cases h; exact routed.trans (.ofMoves (moves_pressureRequest _ _))
  · cases h; exact .refl s

theorem acts_responseDelivered {s t : State} (h : execResponseDelivered s = .next t) : Acts s t := by
  unfold execResponseDelivered at h
  split at h
  · cases h; exact .refl s
  · split at h
    · cases h; exact .refl s
    · cases h
      exact .trans (.one (.freePlace s)) (.ofSame (.of rfl))

theorem acts_grantForward (s : State) (r : FwdReq) (rest : List FwdReq) : Acts s (s.grantForward r rest) := .ofSame (.of rfl)

theorem acts_grantDrain (s : State) (g : GroupId) (d : Fin 4) (e : Entry) : Acts s (s.grantDrain g d e) := by
  refine .trans (.one (.issue s (fun x => if x.isOf g .sealed && decide (x.arrival = s.nextIssue) then
    { x with issued := true } else x) fun x => ?_)) (.ofSame (.of rfl))
  split
  · exact .inr rfl
  · exact .inl rfl

theorem acts_arbiterGrant {s t : State} (h : execArbiterGrant s = .next t) : Acts s t := by
  unfold execArbiterGrant at h
  split at h
  · cases h; exact .refl s
  · split at h
    · cases h; exact .refl s
    · cases h; exact acts_grantForward s _ _
    · cases h; exact acts_grantDrain s _ _ _
    · split at h
      · cases h; exact acts_grantForward s _ _
      · cases h; exact acts_grantDrain s _ _ _

theorem acts_answerRead (s : State) (t : UTag) (q : ReadRecord) (st : MemStatus) (d : Lanes) :
    Acts s (s.answerRead t q st d) := by
  have freed : Acts s { s with outstanding := s.outstanding.set t none } := .ofSame (.of rfl)
  have lowered := freed.trans (.ofMoves (moves_lowerMark _ q.mark))
  let u := State.lowerMark { s with outstanding := s.outstanding.set t none } q.mark
  have untracked : Acts s { u with tracker := u.tracker.set t none } := lowered.trans (.ofSame (.of rfl))
  cases st <;> exact untracked.trans (.ofMove (.respond _ _ _ _))

theorem acts_answerPass (s : State) (t : UTag) (o : OutReq) (st : MemStatus) (d : Lanes) :
    Acts s (s.answerPass t o st d) := by
  have freed : Acts s { s with outstanding := s.outstanding.set t none } := .ofSame (.of rfl)
  have lowered := freed.trans (.ofMoves (moves_lowerMark _ o.mark))
  unfold State.answerPass
  dsimp only
  split <;> exact lowered.trans (.ofMove (.respond _ _ _ _))

theorem acts_stray (s : State) : Acts s s.stray :=
  .ofMoves ((Moves.one (.bump s .strayResponses 1)).tail (.raise _ .protocol))

theorem moves_drainFaulted (s : State) (g : GroupId) (a : Addr) : Moves s (s.drainFaulted g a) :=
  ((Moves.one (.bump s (.drainFaults g) 1)).tail (.raise _ .drainFault)).tail (.log _ _ _ _)

/-- The response to a drain write up to its entry: its tag free, counted, and with ERR reported (R94, R95). -/
def State.drainCounted (s : State) (d : Fin 4) (b : DrainBinding) (st : MemStatus) : State :=
  let s1 := { s with drainTags := s.drainTags.set d none }
  match st with
  | .ok => s1.modSlot b.group fun sl => { sl with written := sl.written + 1 }
  | .err => (s1.modSlot b.group fun sl => { sl with failed := sl.failed + 1 }).drainFaulted b.group
      ((s1.sealedAt b).elim 0 Entry.addr)

/-- What follows the counting: the entry freed, the stall slot retried, and the completion (R33, R37, R96). -/
def State.drainFreed (s : State) (b : DrainBinding) : State :=
  let t := (s.freeSealed b).retry
  if t.drained b.group then t.complete b.group else t

theorem answerDrain_eq (s : State) (d : Fin 4) (b : DrainBinding) (st : MemStatus) :
    s.answerDrain d b st = (s.drainCounted d b st).drainFreed b := by
  cases st <;> rfl

theorem acts_drainCounted (s : State) (d : Fin 4) (b : DrainBinding) (st : MemStatus) :
    Acts s (s.drainCounted d b st) := by
  have freed : Acts s { s with drainTags := s.drainTags.set d none } := .ofSame (.of rfl)
  cases st
  · exact freed.trans (.ofMove (.modSlot _ _ _))
  · exact freed.trans (.ofMoves ((Moves.one (.modSlot _ _ _)).trans (moves_drainFaulted _ _ _)))

theorem moves_drainFreed (s : State) (b : DrainBinding) : Moves s (s.drainFreed b) := by
  have retried := (Moves.one (.freeSealed s b)).trans (moves_retry _)
  unfold State.drainFreed
  dsimp only
  split
  · exact retried.trans (moves_complete _ _)
  · exact retried

theorem acts_answerDrain (s : State) (d : Fin 4) (b : DrainBinding) (st : MemStatus) :
    Acts s (s.answerDrain d b st) := by
  rw [answerDrain_eq]
  exact (acts_drainCounted s d b st).trans (.ofMoves (moves_drainFreed _ b))

theorem acts_downstreamResponse {s t : State} {tag : DTag} {st : MemStatus} {d : Lanes}
    (h : execDownstreamResponse tag st d s = .next t) : Acts s t := by
  unfold execDownstreamResponse at h
  split at h
  · cases h; exact .refl s
  · split at h
    · cases h
      unfold State.answerForwarded
      split
      · exact acts_stray s
      · split
        · exact acts_answerRead s _ _ _ _
        · exact acts_answerPass s _ _ _ _
    · cases h
      unfold State.answerDrainTag
      split
      · exact acts_stray s
      · exact acts_answerDrain s _ _ _

/-! ### Time -/

theorem Timebase.Bounded.zeroed {t : Timebase} (h : t.Bounded) : t.zeroed.Bounded where
  limitPos := h.shadowPos
  shadowPos := h.shadowPos
  count := Nat.zero_le _
  climbing := fun _ _ _ => h.shadowPos
  upward := fun _ _ => rfl

theorem Timebase.Bounded.restarted {t : Timebase} (h : t.Bounded) : t.restarted.Bounded where
  limitPos := h.shadowPos
  shadowPos := h.shadowPos
  count := Nat.zero_le _
  climbing := fun _ _ _ => h.shadowPos
  upward := fun _ _ => rfl

/-- The counter's step keeps the count within the limit (R53 to R55). -/
theorem Timebase.Bounded.step {t : Timebase} (h : t.Bounded) : t.step.after.Bounded := by
  obtain ⟨hlim, hsh, hc, hclimb, hup⟩ := h
  unfold Timebase.step
  split
  case isFalse => exact ⟨hlim, hsh, hc, hclimb, hup⟩
  case isTrue hrun =>
    split
    case h_1 hmode =>
      unfold Timebase.stepUp
      split
      case isTrue hlt => exact ⟨hlim, hsh, hlt, fun _ _ k => absurd hmode k, fun _ _ => rfl⟩
      case isFalse => exact Timebase.Bounded.zeroed ⟨hlim, hsh, hc, hclimb, hup⟩
    case h_2 hmode =>
      unfold Timebase.stepUpdown
      split
      case h_1 hdir =>
        have hlt := hclimb hrun hdir (by simp [hmode])
        refine ⟨hlim, hsh, hlt, fun _ k _ => ?_, fun _ k => absurd hmode k⟩
        dsimp only at k ⊢
        split at k
        · cases k
        · omega
      case h_2 hdir =>
        dsimp only
        split
        · exact Timebase.Bounded.zeroed ⟨hlim, hsh, hc, hclimb, hup⟩
        · exact ⟨hlim, hsh, by dsimp only; omega, fun _ k _ => by simp [hdir] at k, fun _ k => absurd hmode k⟩
    case h_3 hmode =>
      have hlt := hclimb hrun (hup hrun (by simp [hmode])) (by simp [hmode])
      refine ⟨hlim, hsh, hlt, fun k _ _ => ?_, fun _ _ => rfl⟩
      have : t.count + 1 ≠ t.limit := by simpa [Timebase.stepOneshot] using k
      show t.count + 1 < t.limit
      omega

theorem acts_applyAll (s : State) (first : Due → Bool) (l : List Due) : Acts s (s.applyAll first l) :=
  .ofMoves (moves_applyAll s first l)

theorem acts_tickFirst (s : State) (first : Due → Bool) : Acts s (s.tickFirst first) :=
  (Acts.one (.advance s)).trans (acts_applyAll _ _ _)

theorem acts_tickOf (s : State) (k : TbEvent) : Acts s (s.tickOf k) := by
  unfold State.tickOf
  split
  · exact acts_tickFirst s _
  · exact .refl s

theorem acts_deliverAll (s : State) (l : List TbEvent) (ts : Stamp) : Acts s (s.deliverAll l ts) :=
  acts_applyAll _ _ _

theorem acts_syncRestart (s : State) : Acts s s.syncRestart :=
  (Acts.one (.retime s _ Timebase.Bounded.zeroed)).trans (acts_deliverAll _ _ _)

theorem acts_syncArrival {s t : State} (h : execSyncArrival s = .next t) : Acts s t := by
  unfold execSyncArrival at h
  split at h
  · cases h; exact .refl s
  · split at h
    · cases h; exact .refl s
    · cases h; exact acts_deliverAll s _ _
    · split at h
      · cases h; exact acts_syncRestart s
      · cases h; exact acts_deliverAll s _ _

end Sys2Proof.Machine

/-! Every frame, every byte and every command as changes (`exec_effect`). -/

namespace Sys2Proof.Machine

/-! ### The hold unit and the quiesce -/

theorem acts_enterHeld (s : State) (c : HoldCause) : Acts s (s.enterHeld c) := .ofMoves (moves_enterHeld s c)

theorem acts_release {s : State} (h : s.hldLow = false) : Acts s s.release := by
  unfold State.release
  dsimp only
  exact ((Acts.one (.release s h)).trans (.ofMoves ((Moves.one (.log _ _ _ _)).tail (.drew _ _)))).trans
    (.ofMoves (Moves.foldl moves_offerPending _ _))

theorem moves_abandon (s : State) (g : GroupId) : Moves s (s.abandon g) := by
  unfold State.abandon
  split
  · exact .refl s
  · exact moves_reportDone s g _ _

theorem acts_lastStep (s : State) : Acts s s.lastStep := by
  have discarded : Acts s (allGroups.foldl State.discardOpen s) :=
    .ofMoves (Moves.foldl (fun s g => .one (.discardOpen s g)) _ _)
  exact ((discarded.tail (.emptyPool _)).trans (.ofMoves (Moves.foldl moves_abandon _ _))).tail (.endQuiesce _)

theorem acts_quiesceEnd {s t : State} (h : execQuiesceEnd s = .next t) : Acts s t := by
  unfold execQuiesceEnd at h
  split at h
  · cases h; exact acts_lastStep s
  · cases h; exact .refl s

/-! ### Registers and records -/

theorem acts_regWrite (s : State) (n : Byte) (v : BitVec 32) : Acts s (s.takeRegWrite n v).state := by
  unfold State.takeRegWrite
  split
  · unfold State.writeTimerMode
    split
    · exact .refl s
    · rename_i hrun
      split
      · exact .refl s
      · exact .one (.retime s _ fun h => ⟨h.limitPos, h.shadowPos, h.count, fun k => absurd k hrun,
          fun k => absurd k hrun⟩)
  · unfold State.writePrescale
    split
    · exact .one (.retime s _ fun h => ⟨h.limitPos, h.shadowPos, h.count, h.climbing, h.upward⟩)
    · exact .refl s
  · unfold State.writePeriodLimit
    split
    · rename_i hv
      refine .one (.retime s _ fun h => ?_)
      dsimp only
      split
      · exact ⟨h.limitPos, hv.1, h.count, h.climbing, h.upward⟩
      · rename_i hrun
        unfold Timebase.loadLimit
        dsimp only
        split
        · exact ⟨hv.1, hv.1, Nat.zero_le _, fun k => absurd k hrun, fun k => absurd k hrun⟩
        · exact ⟨hv.1, hv.1, by dsimp only; omega, fun k => absurd k hrun, fun k => absurd k hrun⟩
    · exact .refl s
  · unfold State.writeMark
    split
    · refine .one (.retime s _ fun h => ?_)
      dsimp only
      split <;> exact ⟨h.limitPos, h.shadowPos, h.count, h.climbing, h.upward⟩
    · exact .refl s
  · unfold State.writeSyncMode
    split
    · exact .refl s
    · exact .one (.retime s _ fun h => ⟨h.limitPos, h.shadowPos, h.count, h.climbing, h.upward⟩)
  · unfold State.writeHoldFilter
    split
    · exact .ofSame (.of rfl)
    · exact .refl s
  · unfold State.writeStallLimit
    split
    · exact .ofSame (.of rfl)
    · exact .refl s
  · unfold State.writeLogKinds
    split
    · exact .ofSame (.of rfl)
    · exact .refl s
  · unfold State.writeLogWatermark
    split
    · exact .ofSame (.of rfl)
    · exact .refl s
  · unfold State.writeEventEnable
    split
    · exact .ofSame (.of rfl)
    · exact .refl s
  · exact .refl s

/-- A written region is OFF (R2). -/
theorem RegionFields.decode_state {f : RegionFields} {r : Region} (h : RegionFields.decode f = some r) :
    r.state = .off := by
  unfold RegionFields.decode at h
  split at h
  · split at h
    · cases h; rfl
    · cases h
  · cases h

theorem acts_writeRegion (s : State) (i : Byte) (f : RegionFields) : Acts s (s.takeWriteRegion i f).state := by
  unfold State.takeWriteRegion
  split
  case isTrue hi =>
    split
    · exact .refl s
    · split
      · exact .refl s
      · rename_i r hr
        exact .one (.writeRegion s ⟨i.toNat, hi⟩ r (RegionFields.decode_state hr))
  case isFalse => exact .refl s

/-- The divider count of a written group record is below its divider (R17). -/
theorem GroupFields.decode_dividerCount {f : GroupFields} {q r : Group} (h : GroupFields.decode f q = some r) :
    r.dividerCount < r.divider := by
  unfold GroupFields.decode at h
  split at h
  · rename_i hd
    split at h
    · cases h; exact hd.1
    · cases h
  · cases h

theorem acts_writeGroup (s : State) (i : Byte) (f : GroupFields) : Acts s (s.takeWriteGroup i f).state := by
  unfold State.takeWriteGroup
  split
  case isTrue hi =>
    dsimp only
    split
    · exact .refl s
    · rename_i r hr
      split
      · exact .refl s
      · split
        · exact .refl s
        · rename_i hq
          have written := Acts.one (.writeGroup s ⟨i.toNat, hi⟩ r (Nat.le_of_not_lt hq)
            (GroupFields.decode_dividerCount hr))
          show Acts s (if _ then _ else _)
          split
          · exact written.trans (.ofMoves (moves_retry _))
          · exact written
  case isFalse => exact .refl s

theorem acts_writeWatch (s : State) (i : Byte) (f : WatchFields) : Acts s (s.takeWriteWatch i f).state := by
  unfold State.takeWriteWatch
  split
  · split
    · exact .refl s
    · exact .ofSame (.of rfl)
  · exact .refl s

/-! ### Actions -/

theorem moves_manualRequest (l : List GroupId) (q : State × Byte) : Moves q.1 (l.foldl manualRequest q).1 := by
  induction l generalizing q with
  | nil => exact .refl _
  | cons g l ih =>
    have one : Moves q.1 (manualRequest q g).1 := by
      unfold manualRequest
      split
      · exact moves_sealFull _ g _ _
      · exact .refl _
    exact one.trans (ih _)

theorem acts_publish (s : State) (m : Byte) : Acts s (s.takePublish m).state := by
  unfold State.takePublish
  split
  · exact .refl s
  · split
    · exact .refl s
    · exact .ofMoves ((Moves.one (.drew s _)).trans (moves_manualRequest _ (s.drew _, 0)))

theorem acts_discard (s : State) (m : Byte) : Acts s (s.takeDiscard m).state := by
  unfold State.takeDiscard
  split
  · exact .refl s
  · split
    · exact .refl s
    · have freed : Moves s ((namedGroups m).foldl State.discardOpen s) :=
        Moves.foldl (fun s g => .one (.discardOpen s g)) _ _
      show Acts s (if _ then _ else _)
      split
      · exact .ofMoves (freed.trans (moves_retry _))
      · exact .ofMoves freed

theorem mem_allRegions (q : RegionId) : q ∈ allRegions := by
  revert q
  decide

theorem acts_regionEnable (s : State) (i : Byte) : Acts s (s.takeRegionEnable i).state := by
  unfold State.takeRegionEnable
  split
  · dsimp only
    split
    · exact .refl s
    · split
      · exact .refl s
      · split
        · exact .refl s
        · rename_i hov
          refine .one (.enable s _ fun q hq => ?_)
          by_contra hc
          exact hov (List.any_eq_true.2 ⟨q, mem_allRegions q, by rw [hq, Bool.true_and]; exact eq_true_of_ne_false hc⟩)
  · exact .refl s

theorem acts_regionRetire (s : State) (i : Byte) : Acts s (s.takeRegionRetire i).state := by
  unfold State.takeRegionRetire
  split
  · dsimp only
    split
    · exact .refl s
    · split
      · exact .refl s
      · rename_i hs
        split
        · exact .refl s
        · exact (Acts.one (.retire s _ (not_not.1 hs))).trans (.ofMoves (moves_retireRequest _ _))
  · exact .refl s

theorem acts_datapathReset (s : State) : Acts s s.takeDatapathReset.state := by
  unfold State.takeDatapathReset
  split
  · exact .refl s
  · have begun : Acts s (State.refuseStalled { s with quiescing := true }) :=
      .trans (.ofSame (t := { s with quiescing := true }) (.of rfl)) (.ofMoves (moves_refuseStalled _))
    show Acts s (if _ then _ else _)
    split
    · exact begun.trans (acts_lastStep _)
    · exact begun

/-- Every frame is taken by a chain of changes. -/
theorem acts_hand (s : State) (f : Frame) : Acts s (s.hand f).state := by
  cases f
  case nak => exact .refl s
  case regRead n =>
    show Acts s (s.takeRegRead n).state
    unfold State.takeRegRead
    split <;> exact .refl s
  case regWrite n v => exact acts_regWrite s n v
  case readRegion i =>
    show Acts s (s.takeReadRegion i).state
    unfold State.takeReadRegion
    split <;> exact .refl s
  case writeRegion i f => exact acts_writeRegion s i f
  case readGroup i =>
    show Acts s (s.takeReadGroup i).state
    unfold State.takeReadGroup
    split <;> exact .refl s
  case writeGroup i f => exact acts_writeGroup s i f
  case readWatch i =>
    show Acts s (s.takeReadWatch i).state
    unfold State.takeReadWatch
    split <;> exact .refl s
  case writeWatch i f => exact acts_writeWatch s i f
  case timerStart =>
    show Acts s s.takeTimerStart.state
    unfold State.takeTimerStart
    split
    · exact .refl s
    · exact .one (.retime s _ Timebase.Bounded.restarted)
  case timerStop =>
    exact .one (.retime s _ fun h => ⟨h.limitPos, h.shadowPos, h.count, fun k => absurd k Bool.false_ne_true,
      fun k => absurd k Bool.false_ne_true⟩)
  case timerRestart =>
    show Acts s s.takeTimerRestart.state
    unfold State.takeTimerRestart
    split
    · exact .one (.retime s _ Timebase.Bounded.restarted)
    · exact .refl s
  case publish m => exact acts_publish s m
  case discard m => exact acts_discard s m
  case regionEnable i => exact acts_regionEnable s i
  case regionRetire i => exact acts_regionRetire s i
  case holdSet =>
    show Acts s s.takeHoldSet.state
    unfold State.takeHoldSet
    split
    · exact .refl s
    · exact acts_enterHeld s _
  case holdRelease =>
    show Acts s s.takeHoldRelease.state
    unfold State.takeHoldRelease
    split
    · exact .refl s
    · exact .refl s
    · split
      · exact .refl s
      · rename_i hl
        exact acts_release (Bool.eq_false_iff.2 hl)
  case logClear => exact .one (.dropRecords s _ (Nat.zero_le _))
  case eventAck => exact .ofSame (.of rfl)
  case countersClear =>
    refine .one (.recount s _ fun c => ?_)
    simp
  case datapathReset => exact acts_datapathReset s
  case logPop =>
    show Acts s s.takeLogPop.state
    unfold State.takeLogPop
    split
    · exact .refl s
    · rename_i hr
      refine .one (.dropRecords s _ ?_)
      rw [hr]
      exact Nat.le_succ _
  case logPeek =>
    show Acts s s.takeLogPeek.state
    unfold State.takeLogPeek
    split <;> exact .refl s
  case probe => exact .refl s
  case status => exact .refl s

/-! ### The receiver -/

theorem acts_takeFrame (s : State) (f : Frame) : Acts s (s.takeFrame f) :=
  (acts_hand s f).trans (.ofSame (.of rfl))

theorem acts_clockByte (s : State) (b : Byte) : Acts s (s.clockByte b) := by
  unfold State.clockByte
  split
  · exact .refl s
  · split
    · exact .refl s
    · exact .refl s
    · dsimp only
      split
      · exact .ofSame (.of rfl)
      · exact acts_takeFrame s _
    · exact .ofSame (.of rfl)
    · exact .ofSame (.of rfl)
    · exact .ofSame (.of rfl)

theorem acts_frameRow (s : State) (f : Frame) : Acts s (s.frameRow f) := by
  unfold State.frameRow
  split
  · exact acts_takeFrame s f
  · exact Acts.foldl acts_clockByte _ s

theorem acts_csFall (s : State) : Acts s s.csFall := by
  unfold State.csFall
  dsimp only
  split <;> exact .ofSame (.of rfl)

theorem acts_csRise (s : State) : Acts s s.csRise := by
  unfold State.csRise
  dsimp only
  split <;> exact .ofSame (.of rfl)

/-! ### Every command -/

/-- The state that the end of a reset leaves, before HLD_N is looked at (R47, R171). -/
def State.outOfReset (s : State) : State :=
  { s with
    inReset := false
    timebase := { s.timebase with interval := 1 }
    port := { Port.reset with rx := if s.csLow then .blocked else .idle } }

theorem execResetEnd_of_inReset {s : State} (h : s.inReset = true) :
    execResetEnd s = .next (if s.hldLow then s.outOfReset.lineAsserted else s.outOfReset) := if_pos h

/-- What a command does: out of reset changes, or the line as the hold unit sees it; in reset the lines' levels alone;
and a hardware reset and its end. -/
inductive Effect (s : State) : State → Prop where
  | idle : Effect s s
  | acts {t : State} (h : s.inReset = false) (k : Acts s t) : Effect s t
  | asserted (h : s.inReset = false) : Effect s ({ s with hldLow := true } : State).lineAsserted
  | deasserted (h : s.inReset = false) : Effect s ({ s with hldLow := false } : State).lineDeasserted
  | level (h : s.inReset = true) (b : Bool) : Effect s { s with hldLow := b }
  | chipSelect (h : s.inReset = true) (b : Bool) : Effect s { s with csLow := b }
  | reset : Effect s s.underReset
  | ended (h : s.inReset = true) (hl : s.hldLow = false) : Effect s s.outOfReset
  | endedLow (h : s.inReset = true) (hl : s.hldLow = true) : Effect s s.outOfReset.lineAsserted

/-- The effects while RST_N is asserted. -/
theorem exec_effect_of_inReset {c : Instr} {s t : State} (hr : s.inReset = true) (h : exec c s = .next t) :
    Effect s t := by
  by_cases hc : c ∈ linesAndReset
  · simp only [linesAndReset, List.mem_cons, List.not_mem_nil, or_false] at hc
    rcases hc with rfl | rfl | rfl | rfl | rfl | rfl
    · cases (if_pos hr).symm.trans h
      exact .level hr true
    · cases (if_pos hr).symm.trans h
      exact .level hr false
    · cases (congrArg Host.Outcome.next (csFall_of_inReset hr)).symm.trans h
      exact .chipSelect hr true
    · cases (congrArg Host.Outcome.next (csRise_of_inReset hr)).symm.trans h
      exact .chipSelect hr false
    · cases h
      exact .reset
    · cases (execResetEnd_of_inReset hr).symm.trans h
      cases hl : s.hldLow
      · exact .ended hr hl
      · exact .endedLow hr hl
  · rw [exec_of_inReset hr hc] at h
    cases h
    exact .idle

/-- The changes of a command out of reset, but for the line, the reset and its end. -/
theorem exec_acts {c : Instr} {s t : State}
    (hc : c ∉ ([.hldNAsserted, .hldNDeasserted, .hardwareReset, .resetEnd] : List Instr)) (h : exec c s = .next t) :
    Acts s t := by
  cases hf : Laws.FrameBytes.frameOf c with
  | some f =>
    rw [exec_frame hf] at h
    cases h
    exact acts_frameRow s f
  | none =>
    cases c <;> simp only [Laws.FrameBytes.frameOf, reduceCtorEq] at hf
    case upstreamRequest => exact acts_upstreamRequest h
    case responseDelivered => exact acts_responseDelivered h
    case arbiterGrant => exact acts_arbiterGrant h
    case downstreamRequestTaken =>
      change execDownstreamRequestTaken s = _ at h
      unfold execDownstreamRequestTaken at h
      split at h
      · cases h; exact .refl s
      · cases h; exact .ofSame (.of rfl)
    case downstreamResponse => exact acts_downstreamResponse h
    case tick =>
      change execTick s = _ at h
      unfold execTick at h
      split at h
      · cases h; exact .refl s
      · cases h; exact acts_tickFirst s _
    case limit => cases h; exact acts_tickOf s _
    case zero => cases h; exact acts_tickOf s _
    case peak => cases h; exact acts_tickOf s _
    case markUp => cases h; exact acts_tickOf s _
    case markDown => cases h; exact acts_tickOf s _
    case stallTimeout =>
      change execStallTimeout s = _ at h
      unfold execStallTimeout at h
      split at h
      · cases h; exact acts_tickFirst s _
      · cases h; exact .refl s
    case syncArrival => exact acts_syncArrival h
    case filterComplete =>
      change execFilterComplete s = _ at h
      unfold execFilterComplete at h
      split at h
      · cases h; exact acts_tickFirst s _
      · cases h; exact .refl s
    case csNRise => cases h; exact acts_csRise s
    case quiesceEnd => exact acts_quiesceEnd h
    case csNFall => cases h; exact acts_csFall s
    case sclkByte b => cases h; exact acts_clockByte s b
    all_goals exact absurd (by simp) hc

/-- Every command has one of these effects. -/
theorem exec_effect {c : Instr} {s t : State} (h : exec c s = .next t) : Effect s t := by
  cases hr : s.inReset with
  | true => exact exec_effect_of_inReset hr h
  | false =>
    by_cases hc : c ∈ ([.hldNAsserted, .hldNDeasserted, .hardwareReset, .resetEnd] : List Instr)
    · have out : ¬ s.inReset = true := by simp [hr]
      simp only [List.mem_cons, List.not_mem_nil, or_false] at hc
      rcases hc with rfl | rfl | rfl | rfl
      · cases (if_neg out).symm.trans h
        exact .asserted hr
      · cases (if_neg out).symm.trans h
        exact .deasserted hr
      · cases h
        exact .reset
      · cases (if_neg out).symm.trans h
        exact .idle
    · exact .acts hr (exec_acts hc h)

/-- A step takes one command, or idles. -/
theorem step_effect {s t : State} (h : step s = .next t) :
    ∃ l : List Instr, Effect { s with pending := l } t := by
  unfold step at h
  split at h
  · cases h; exact ⟨s.pending, .idle⟩
  · exact ⟨_, exec_effect h⟩

end Sys2Proof.Machine

/-! The invariants of the blocks: each is kept by every small change, and so by every step. -/

namespace Sys2Proof.Machine

/-! ### From the changes to the step -/

/-- A property of the blocks that every change keeps and that holds right after a hardware reset. -/
structure Kept (P : State → Prop) : Prop where
  same : ∀ {s t : State}, SameBlocks s t → P s → P t
  move : ∀ {s t : State}, Move s t → P s → P t
  act : ∀ {s t : State}, Act s t → P s → P t
  reset : ∀ s : State, P s → P s.underReset

theorem Kept.sameAs {P : State → Prop} (h : Kept P) {s t : State} (hs : P s) (e : t.blocks = s.blocks) : P t :=
  h.same (.of e) hs

/-- The line as the hold unit sees it: an entry to HELD, or a change of the hold unit alone. -/
theorem Kept.lineAsserted {P : State → Prop} (h : Kept P) {s : State} (hs : P s) : P s.lineAsserted := by
  unfold State.lineAsserted
  split
  · split
    · exact (moves_enterHeld s _).keeps (fun _ _ => h.move) hs
    · exact h.sameAs hs rfl
  · exact hs

theorem Kept.lineDeasserted {P : State → Prop} (h : Kept P) {s : State} (hs : P s) : P s.lineDeasserted := by
  unfold State.lineDeasserted
  split
  · exact h.move (.bump _ _ _) (h.sameAs hs rfl)
  · exact hs

theorem Kept.outOfReset {P : State → Prop} (h : Kept P) {s : State} (hs : P s) : P s.outOfReset :=
  h.sameAs (h.act (.retime s { s.timebase with interval := 1 } fun k =>
    ⟨k.limitPos, k.shadowPos, k.count, k.climbing, k.upward⟩) hs) rfl

/-- What the changes keep, every command keeps. -/
theorem Kept.effect {P : State → Prop} (h : Kept P) {s t : State} (k : Effect s t) (hs : P s) : P t := by
  cases k with
  | idle => exact hs
  | acts _ k => exact k.keeps (fun _ _ => h.act) hs
  | asserted => exact h.lineAsserted (h.sameAs hs rfl)
  | deasserted => exact h.lineDeasserted (h.sameAs hs rfl)
  | level => exact h.sameAs hs rfl
  | chipSelect => exact h.sameAs hs rfl
  | reset => exact h.reset s hs
  | ended => exact h.outOfReset hs
  | endedLow => exact h.lineAsserted (h.outOfReset hs)

/-- A property that does not see the queue of commands is kept by every step. -/
theorem Kept.step {P : State → Prop} (h : Kept P) (hq : ∀ (s : State) (l : List Instr), P s → P { s with pending := l })
    {s t : State} (hs : P s) (k : step s = .next t) : P t := by
  obtain ⟨l, e⟩ := step_effect k
  exact h.effect e (hq s l hs)

/-! ### The queue of commands -/

theorem Move.pending {s t : State} (h : Move s t) : t.pending = s.pending := by
  cases h
  case log => exact (quiet_logRecord _ _ _ _).pending
  case offer h => exact (quiet_offer h).pending
  all_goals rfl

theorem Moves.pending {s t : State} (h : Moves s t) : t.pending = s.pending :=
  h.keeps (P := fun u => u.pending = s.pending) (fun _ _ k e => k.pending.trans e) rfl

theorem kept_pending (l : List Instr) : Kept fun s => s.pending = l where
  same h e := h.pending.trans e
  move h e := h.pending.trans e
  act h e := by
    cases h
    case moves h => exact h.pending.trans e
    case unseen h => exact h.pending.trans e
    all_goals exact e
  reset _ e := e

/-! ### The log, the counters and the places -/

/-- A log with room for its record, or full, keeps within its 32 records (R159, R161). -/
theorem logRecord_records_le {s : State} (i : Fin 4) (ts : Stamp) (b : LogBody) (h : s.log.records.length ≤ 32) :
    (s.logRecord i ts b).log.records.length ≤ 32 := by
  unfold State.logRecord
  split
  · exact h
  · split
    · rename_i hl
      have room : (s.log.enter i ts b).records.length ≤ 32 := by
        simp only [Log.enter, List.length_append, List.length_singleton]
        omega
      dsimp only
      split
      · exact room
      · exact room
    · exact h

/-- Of the moves, a record alone reaches the log. -/
theorem Move.log_eq {s t : State} (h : Move s t) : t.log = s.log ∨ ∃ i ts b, t = s.logRecord i ts b := by
  cases h
  case log => exact .inr ⟨_, _, _, rfl⟩
  case offer h => rcases offer_cases h with ⟨_, _, rfl⟩ | ⟨_, _, _, rfl⟩ <;> exact .inl rfl
  all_goals exact .inl rfl

theorem Move.logBounded {s t : State} (h : Move s t) (hs : s.LogBounded) : t.LogBounded := by
  rcases h.log_eq with e | ⟨i, ts, b, rfl⟩
  · unfold State.LogBounded
    rw [e]
    exact hs
  · exact logRecord_records_le i ts b hs

theorem kept_logBounded : Kept State.LogBounded where
  same h hs := by
    unfold State.LogBounded
    rw [h.records]
    exact hs
  move h hs := h.logBounded hs
  act h hs := by
    cases h
    case moves h => exact h.keeps (fun _ _ k => k.logBounded) hs
    case unseen h =>
      unfold State.LogBounded
      rw [h.records]
      exact hs
    case dropRecords h => exact Nat.le_trans h hs
    all_goals exact hs
  reset _ _ := Nat.zero_le _

theorem satAdd_le (a n : Nat) : satAdd a n ≤ counterMax := Nat.min_le_left _ _

theorem bump_countersBounded {s : State} (c : Counter) (n : Nat) (h : s.CountersBounded) :
    (s.bump c n).CountersBounded := by
  intro k
  show (s.events.counters.set c.index _)[k] ≤ _
  by_cases e : c.index = k
  · subst e
    simpa using satAdd_le _ _
  · have e' : (c.index : Nat) ≠ k := fun x => e (Fin.ext x)
    simpa [Vector.getElem_set_ne, e'] using h k

theorem logRecord_countersBounded {s : State} (i : Fin 4) (ts : Stamp) (b : LogBody) (h : s.CountersBounded) :
    (s.logRecord i ts b).CountersBounded := by
  unfold State.logRecord
  split
  · exact h
  · split
    · dsimp only
      split
      · exact h
      · exact h
    · exact bump_countersBounded (s := { s with log := _ }) _ _ h

theorem Move.countersBounded {s t : State} (h : Move s t) (hs : s.CountersBounded) : t.CountersBounded := by
  cases h
  case log => exact logRecord_countersBounded _ _ _ hs
  case bump => exact bump_countersBounded _ _ hs
  case offer h => rcases offer_cases h with ⟨_, _, rfl⟩ | ⟨_, _, _, rfl⟩ <;> exact hs
  case discardOpen g => exact bump_countersBounded (s := { s with pool := _ }) _ _ hs
  all_goals exact hs

theorem kept_countersBounded : Kept State.CountersBounded where
  same h hs := by
    unfold State.CountersBounded
    rw [h.counters]
    exact hs
  move h hs := h.countersBounded hs
  act h hs := by
    cases h
    case moves h => exact h.keeps (fun _ _ k => k.countersBounded) hs
    case unseen h =>
      unfold State.CountersBounded
      rw [h.counters]
      exact hs
    case recount h => exact fun c => Nat.le_trans (h c) (hs c)
    all_goals exact hs
  reset _ _ := by
    show State.reset.CountersBounded
    intro c
    simp [State.reset, Events.reset]

theorem Move.places {s t : State} (h : Move s t) : t.places = s.places := by
  cases h
  case log => exact (quiet_logRecord _ _ _ _).places
  case offer h => exact (quiet_offer h).places
  all_goals rfl

theorem Move.placesBounded {s t : State} (h : Move s t) (hs : s.PlacesBounded) : t.PlacesBounded := by
  unfold State.PlacesBounded
  rw [h.places]
  exact hs

theorem kept_placesBounded : Kept State.PlacesBounded where
  same h hs := by
    unfold State.PlacesBounded
    rw [h.places]
    exact hs
  move h hs := h.placesBounded hs
  act h hs := by
    cases h
    case moves h => exact h.keeps (fun _ _ k => k.placesBounded) hs
    case unseen h =>
      unfold State.PlacesBounded
      rw [h.places]
      exact hs
    case takePlace h => exact h
    case freePlace => exact Nat.le_trans (Nat.sub_le _ _) hs
    all_goals exact hs
  reset _ _ := Nat.zero_le _

/-! ### The divider counts -/

theorem modGroup_get (s : State) (g : GroupId) (f : Group → Group) (k : GroupId) :
    (s.modGroup g f).groups[k] = if k = g then f s.groups[g] else s.groups[k] := by
  by_cases e : k = g
  · subst e
    simp
  · have e' : (g : Nat) ≠ k := fun x => e (Fin.ext x).symm
    simp [Vector.getElem_set_ne, e, e']

/-- One group's record changed, its divider count still below its divider (R70). -/
theorem modGroup_dividersBelow {s : State} (g : GroupId) (f : Group → Group) (h : s.DividersBelow)
    (hf : (f s.groups[g]).dividerCount < (f s.groups[g]).divider) : (s.modGroup g f).DividersBelow := by
  intro k
  rw [modGroup_get]
  split
  · exact hf
  · exact h k

theorem takeSeal_dividerCount {r : Group} (sl : SealedSlot) (c : SealCause) (h : r.dividerCount < r.divider) :
    (r.takeSeal sl c).dividerCount < (r.takeSeal sl c).divider := by
  show (if _ then _ else _) < r.divider
  split
  · omega
  · exact h

theorem Move.dividersBelow {s t : State} (h : Move s t) (hs : s.DividersBelow) : t.DividersBelow := by
  cases h
  case log => unfold State.DividersBelow; rw [logRecord_groups]; exact hs
  case offer h => unfold State.DividersBelow; rw [offer_groups h]; exact hs
  case takeSeal g c =>
    exact modGroup_dividersBelow (s := s) g (fun r => r.takeSeal (s.newSlot g) c) hs
      (takeSeal_dividerCount _ _ (hs g))
  case modSlot g f => exact modGroup_dividersBelow g (fun r => { r with slot := r.slot.map f }) hs (hs g)
  case freeSlot g => exact modGroup_dividersBelow g (fun r => { r with slot := none }) hs (hs g)
  case pendRetire g => exact modGroup_dividersBelow g _ hs (hs g)
  case count g n h => exact modGroup_dividersBelow g _ hs (h (hs g))
  all_goals exact hs

theorem advance_group (s : State) (g : GroupId) : s.advance.groups[g] = s.groups[g].aged := by
  simp [State.advance]

theorem endQuiesce_group (s : State) (g : GroupId) : s.endQuiesce.groups[g] = s.groups[g].quiesced := by
  simp [State.endQuiesce]

theorem kept_dividersBelow : Kept State.DividersBelow where
  same h hs := by
    unfold State.DividersBelow
    rw [h.groups]
    exact hs
  move h hs := h.dividersBelow hs
  act h hs := by
    cases h
    case moves h => exact h.keeps (fun _ _ k => k.dividersBelow) hs
    case unseen h =>
      unfold State.DividersBelow
      rw [h.groups]
      exact hs
    case advance =>
      intro g
      rw [advance_group]
      exact hs g
    case writeGroup g r hq hd => exact modGroup_dividersBelow g _ hs hd
    case endQuiesce s =>
      intro g
      rw [endQuiesce_group]
      exact Nat.lt_of_le_of_lt (Nat.zero_le _) (hs g)
    all_goals exact hs
  reset _ _ := by
    show State.reset.DividersBelow
    unfold State.DividersBelow
    decide

/-! ### The period count -/

theorem Move.timebase {s t : State} (h : Move s t) : t.timebase = s.timebase := by
  cases h
  case log => exact (quiet_logRecord _ _ _ _).timebase
  case offer h => exact (quiet_offer h).timebase
  all_goals rfl

theorem Moves.timebase {s t : State} (h : Moves s t) : t.timebase = s.timebase :=
  h.keeps (P := fun u => u.timebase = s.timebase) (fun _ _ k e => k.timebase.trans e) rfl

theorem Timebase.Bounded.of_interval {t : Timebase} (h : t.Bounded) (n : Nat) : ({ t with interval := n }).Bounded :=
  ⟨h.limitPos, h.shadowPos, h.count, h.climbing, h.upward⟩

theorem Timebase.reset_bounded : Timebase.reset.Bounded := by constructor <;> decide

theorem kept_timebaseBounded : Kept fun s => s.timebase.Bounded where
  same h hs := by rw [h.timebase]; exact hs
  move h hs := by rw [h.timebase]; exact hs
  act h hs := by
    cases h
    case moves h => rw [h.timebase]; exact hs
    case unseen h => rw [h.timebase]; exact hs
    case advance => exact hs.step.of_interval _
    case retime h => exact h hs
    all_goals exact hs
  reset _ _ := Timebase.reset_bounded

/-! ### The active windows -/

theorem active_iff (r : Region) : r.active = true ↔ r.state ≠ .off := by simp [Region.active]

/-- Every active region of t was active in s, with the same window. -/
def WindowsShrink (s t : State) : Prop :=
  ∀ r : RegionId, t.regions[r].active = true → s.regions[r].active = true ∧
    t.regions[r].base = s.regions[r].base ∧ t.regions[r].sizeCode = s.regions[r].sizeCode

theorem WindowsShrink.of_eq {s t : State} (h : t.regions = s.regions) : WindowsShrink s t := by
  intro r
  have e : t.regions[r] = s.regions[r] := by rw [h]
  rw [e]
  exact fun ha => ⟨ha, rfl, rfl⟩

theorem overlaps_congr {r r' q q' : Region} (hb : r'.base = r.base) (hz : r'.sizeCode = r.sizeCode)
    (kb : q'.base = q.base) (kz : q'.sizeCode = q.sizeCode) : r'.overlaps q' = r.overlaps q := by
  unfold Region.overlaps
  rw [hb, hz, kb, kz]

theorem WindowsShrink.windowsApart {s t : State} (h : WindowsShrink s t) (hs : s.WindowsApart) : t.WindowsApart := by
  intro r q hrq hr hq
  obtain ⟨ar, br, zr⟩ := h r hr
  obtain ⟨aq, bq, zq⟩ := h q hq
  rw [overlaps_congr br zr bq zq]
  exact hs r q hrq ar aq

theorem moveRegions_shrink (s : State) (g : GroupId) {a : RegionState} (b : RegionState) (ha : a ≠ .off) :
    WindowsShrink s (s.moveRegions g a b) := by
  intro r
  rw [moveRegions_region]
  split
  · rename_i h
    intro _
    exact ⟨(active_iff _).2 (h.2 ▸ ha), rfl, rfl⟩
  · exact fun h => ⟨h, rfl, rfl⟩

theorem modRegion_get (s : State) (r : RegionId) (f : Region → Region) (q : RegionId) :
    (s.modRegion r f).regions[q] = if q = r then f s.regions[r] else s.regions[q] := by
  by_cases e : q = r
  · subst e
    simp
  · have e' : (r : Nat) ≠ q := fun x => e (Fin.ext x).symm
    simp [Vector.getElem_set_ne, e, e']

theorem Move.windowsShrink {s t : State} (h : Move s t) : WindowsShrink s t := by
  cases h
  case log => exact .of_eq (logRecord_regions _ _ _ _)
  case offer h => rcases offer_cases h with ⟨_, _, rfl⟩ | ⟨_, _, _, rfl⟩ <;> exact .of_eq rfl
  case takeSeal g c => exact moveRegions_shrink _ g _ (by decide)
  case regionsOff g => exact moveRegions_shrink s g _ (by decide)
  all_goals exact .of_eq rfl

theorem endQuiesce_region (s : State) (r : RegionId) : s.endQuiesce.regions[r] = s.regions[r].quiesced := by
  simp [State.endQuiesce]

theorem endQuiesce_shrink (s : State) : WindowsShrink s s.endQuiesce := by
  intro r
  rw [endQuiesce_region]
  unfold Region.quiesced
  split
  · exact fun h => absurd rfl ((active_iff _).1 h)
  · exact fun h => ⟨h, rfl, rfl⟩

/-- A region that becomes STAGING, its window sharing no address with an active one (R11 test 4). -/
theorem enable_windowsApart {s : State} {r : RegionId} (h : s.WindowsApart)
    (hr : ∀ q : RegionId, s.regions[q].active = true → s.regions[r].overlaps s.regions[q] = false) :
    (s.modRegion r fun x => { x with state := .staging }).WindowsApart := by
  have symm : ∀ a b : Region, a.overlaps b = b.overlaps a := fun a b => Bool.and_comm _ _
  intro p q hpq
  rw [modRegion_get, modRegion_get]
  by_cases hp : p = r
  · subst hp
    rw [if_pos rfl, if_neg (Ne.symm hpq)]
    exact fun _ hq => hr q hq
  · rw [if_neg hp]
    by_cases hq : q = r
    · subst hq
      rw [if_pos rfl]
      exact fun ha _ => (symm _ _).trans (hr p ha)
    · rw [if_neg hq]
      exact h p q hpq

theorem kept_windowsApart : Kept State.WindowsApart where
  same h hs := (WindowsShrink.of_eq h.regions).windowsApart hs
  move h hs := h.windowsShrink.windowsApart hs
  act h hs := by
    cases h
    case moves h => exact h.keeps (fun _ _ k => k.windowsShrink.windowsApart) hs
    case unseen h => exact (WindowsShrink.of_eq h.regions).windowsApart hs
    case writeRegion s r q h =>
      refine WindowsShrink.windowsApart (fun p => ?_) hs
      have e : ({ s with regions := s.regions.set r q } : State).regions[p] = if p = r then q else s.regions[p] :=
        modRegion_get s r (fun _ => q) p
      rw [e]
      split
      · exact fun ha => absurd h ((active_iff _).1 ha)
      · exact fun ha => ⟨ha, rfl, rfl⟩
    case enable h => exact enable_windowsApart hs h
    case retire s r h =>
      refine WindowsShrink.windowsApart (fun p => ?_) hs
      rw [modRegion_get]
      split
      · rename_i e
        subst e
        exact fun _ => ⟨(active_iff _).2 (by rw [h]; decide), rfl, rfl⟩
      · exact fun ha => ⟨ha, rfl, rfl⟩
    case endQuiesce s => exact (endQuiesce_shrink s).windowsApart hs
    all_goals exact hs
  reset _ _ := by
    show State.reset.WindowsApart
    unfold State.WindowsApart
    decide

end Sys2Proof.Machine

namespace Sys2Proof.Proofs

open Sys2Proof.Machine

/-- Settles O57: no change but REGION_ENABLE makes a region active, and that one tests the windows first. -/
theorem stepsKeepWindowsApart : Obligations.StepsKeepWindowsApart :=
  fun _ _ hs h => kept_windowsApart.step (fun _ _ k => k) hs h

/-- Settles O58: only the tick, the restarts and the writes of the timebase's registers change the timebase. -/
theorem stepsKeepTheCountBounded : Obligations.StepsKeepTheCountBounded :=
  fun _ _ hs h => kept_timebaseBounded.step (fun _ _ k => k) hs h

/-- Settles O59: each of the four is kept by every change on its own. -/
theorem stepsKeepCountsBounded : Obligations.StepsKeepCountsBounded :=
  fun _ _ h => ⟨fun hs => kept_logBounded.step (fun _ _ k => k) hs h,
    fun hs => kept_countersBounded.step (fun _ _ k => k) hs h,
    fun hs => kept_placesBounded.step (fun _ _ k => k) hs h,
    fun hs => kept_dividersBelow.step (fun _ _ k => k) hs h⟩

/-- Settles O2. -/
theorem commandsKeepTheQueue : Obligations.CommandsKeepTheQueue :=
  fun _ s _ h => (kept_pending s.pending).effect (exec_effect h) rfl

end Sys2Proof.Proofs

/-! The pool's invariant (R22, R23, R24): what a change leaves of a group's OPEN entries, in their order. And the hold
unit in step with the line (R122 to R124). -/

namespace Sys2Proof.Machine

/-! ### The OPEN entries of a group -/

/-- The arrival number and the doubleword of each OPEN entry of a group, in the pool's order. -/
def State.openKeys (s : State) (g : GroupId) : List (Nat × Addr) :=
  (s.pool.filter fun e => e.isOf g .opened).map fun e => (e.arrival, e.addr)

theorem length_openKeys (s : State) (g : GroupId) : (s.openKeys g).length = s.openCount g := by
  unfold State.openKeys State.openCount
  rw [List.length_map, List.countP_eq_length_filter]

/-- The three conditions on the pool, by the keys of its OPEN entries. -/
structure PoolSound (s : State) : Prop where
  used : s.pool.length ≤ 64
  quota : ∀ g : GroupId, (s.openKeys g).length ≤ s.groups[g].quota
  arrivals : ∀ g : GroupId, (s.openKeys g).map Prod.fst = List.range (s.openKeys g).length
  addrs : ∀ g : GroupId, ((s.openKeys g).map Prod.snd).Nodup

theorem poolSound_iff (s : State) : PoolSound s ↔ s.PoolBounded ∧ s.ArrivalsInOrder ∧ s.OneOpenEntry := by
  have arrival : ∀ g, (s.openKeys g).map Prod.fst = (s.pool.filter fun e => e.isOf g .opened).map Entry.arrival :=
    fun g => List.map_map ..
  have addr : ∀ g, (s.openKeys g).map Prod.snd = (s.pool.filter fun e => e.isOf g .opened).map Entry.addr :=
    fun g => List.map_map ..
  constructor
  · rintro ⟨hu, hq, ha, hd⟩
    exact ⟨⟨hu, fun g => length_openKeys s g ▸ hq g⟩, fun g => by rw [← arrival, ha g, length_openKeys],
      fun g => by rw [← addr]; exact hd g⟩
  · rintro ⟨⟨hu, hq⟩, ha, hd⟩
    exact ⟨hu, fun g => by rw [length_openKeys]; exact hq g, fun g => by rw [arrival, ha g, length_openKeys],
      fun g => by rw [addr]; exact hd g⟩

/-- No group gains an OPEN entry: each keeps the ones it has, or has none left. -/
structure OpensKept (s t : State) : Prop where
  used : t.pool.length ≤ s.pool.length
  quota : ∀ g : GroupId, (t.openKeys g).length ≤ (s.openKeys g).length → (s.openKeys g).length ≤ s.groups[g].quota →
    (t.openKeys g).length ≤ t.groups[g].quota
  keys : ∀ g : GroupId, t.openKeys g = [] ∨ t.openKeys g = s.openKeys g

theorem PoolSound.of_opensKept {s t : State} (hs : PoolSound s) (h : OpensKept s t) : PoolSound t where
  used := Nat.le_trans h.used hs.used
  quota g := by
    refine h.quota g ?_ (hs.quota g)
    rcases h.keys g with e | e <;> rw [e]
    exact Nat.zero_le _
  arrivals g := by
    rcases h.keys g with e | e <;> rw [e]
    · rfl
    · exact hs.arrivals g
  addrs g := by
    rcases h.keys g with e | e <;> rw [e]
    · exact List.nodup_nil
    · exact hs.addrs g

/-- With the quotas as they were, a change is judged by the pool alone. -/
theorem OpensKept.of_pool {s t : State} (hq : ∀ g : GroupId, t.groups[g].quota = s.groups[g].quota)
    (hu : t.pool.length ≤ s.pool.length) (hk : ∀ g : GroupId, t.openKeys g = [] ∨ t.openKeys g = s.openKeys g) :
    OpensKept s t :=
  ⟨hu, fun g h k => by rw [hq]; omega, hk⟩

theorem OpensKept.of_eq {s t : State} (hg : t.groups = s.groups) (hp : t.pool = s.pool) : OpensKept s t :=
  .of_pool (fun g => by rw [hg]) (by rw [hp]) fun g => .inr (by unfold State.openKeys; rw [hp])

/-- Entries that are changed in place, the OPEN ones in neither arrival number nor address. -/
theorem openKeys_map {s t : State} {f : Entry → Entry} (hp : t.pool = s.pool.map f) (g : GroupId)
    (hf : ∀ e, (f e).isOf g .opened = e.isOf g .opened ∧ (f e).arrival = e.arrival ∧ (f e).addr = e.addr) :
    t.openKeys g = s.openKeys g := by
  unfold State.openKeys
  rw [hp, List.filter_map, List.map_map]
  congr 1
  · funext e
    simp [hf e]
  · congr 1
    funext e
    exact (hf e).1

/-- Entries that are dropped, none of them an OPEN one of the group. -/
theorem openKeys_filter {s t : State} {p : Entry → Bool} (hp : t.pool = s.pool.filter p) (g : GroupId)
    (hf : ∀ e, e.isOf g .opened = true → p e = true) : t.openKeys g = s.openKeys g := by
  unfold State.openKeys
  rw [hp, List.filter_filter]
  congr 1
  apply List.filter_congr
  intro e _
  cases h : e.isOf g .opened with
  | false => rfl
  | true => rw [hf e h]; rfl

theorem openKeys_eq_nil {t : State} {g : GroupId} (h : t.openCount g = 0) : t.openKeys g = [] := by
  rw [← length_openKeys] at h
  exact List.eq_nil_of_length_eq_zero h

/-- No entry of the group and role holds the doubleword. -/
theorem findEntry_eq_none_iff (s : State) (g : GroupId) (o : Role) (a : Addr) :
    s.findEntry g o a = none ↔ ∀ e ∈ s.pool, ¬(e.group = g ∧ e.role = o ∧ e.addr = a) := by
  simp [State.findEntry, List.find?_eq_none]

/-! ### The moves -/

theorem offer_poolSound {s t : State} {g : GroupId} {a : Addr} {z : Size} {d : Lanes}
    (h : s.offer g a z d = some t) (hs : PoolSound s) : PoolSound t := by
  rcases offer_cases h with ⟨e, -, rfl⟩ | ⟨hfind, hroom, hquota, rfl⟩
  · refine hs.of_opensKept (.of_pool (fun _ => rfl) (by simp) fun k => .inr ?_)
    refine openKeys_map (s := s) rfl k fun x => ?_
    split <;> exact ⟨rfl, rfl, rfl⟩
  · have keys : ∀ k : GroupId, State.openKeys { s with
        pool := s.pool ++
          [{ addr := doubleword a, data := maskLanes (laneMask a z) d, mask := laneMask a z, group := g,
             role := .opened, arrival := s.openCount g, issued := false }] } k =
        if k = g then s.openKeys g ++ [(s.openCount g, doubleword a)] else s.openKeys k := by
      intro k
      unfold State.openKeys
      rw [List.filter_append, List.map_append]
      by_cases e : k = g
      · subst e
        simp [Entry.isOf]
      · simp [Entry.isOf, e, Ne.symm e]
    refine ⟨by simpa using hroom, fun k => ?_, fun k => ?_, fun k => ?_⟩ <;> rw [keys] <;> split
    · rename_i e
      subst e
      rw [List.length_append, length_openKeys]
      exact hquota
    · exact hs.quota k
    · rw [List.map_append, hs.arrivals g, List.length_append, length_openKeys]
      exact List.range_succ.symm
    · exact hs.arrivals k
    · rw [List.map_append, List.nodup_append]
      refine ⟨hs.addrs g, List.nodup_singleton _, ?_⟩
      rintro x hx y hy rfl
      obtain rfl := List.mem_singleton.1 hy
      obtain ⟨q, hq, hqa⟩ := List.mem_map.1 hx
      obtain ⟨e, he, rfl⟩ := List.mem_map.1 hq
      obtain ⟨hmem, hof⟩ := List.mem_filter.1 he
      exact (findEntry_eq_none_iff s g .opened _).1 hfind e hmem ⟨((Entry.isOf_iff e g .opened).1 hof).1,
        ((Entry.isOf_iff e g .opened).1 hof).2, hqa⟩
    · exact hs.addrs k

/-- A seal leaves its group no OPEN entry, and every other group the ones it has (R36). -/
theorem takeSeal_opensKept (s : State) (g : GroupId) (c : SealCause) : OpensKept s (s.takeSeal g c) := by
  have quota : ∀ k : GroupId, (s.takeSeal g c).groups[k].quota = s.groups[k].quota := by
    intro k
    have := modGroup_get s g (fun r => r.takeSeal (s.newSlot g) c) k
    rw [show (s.takeSeal g c).groups[k] = _ from this]
    split
    · rename_i e
      subst e
      rfl
    · rfl
  refine .of_pool quota (by simp [takeSeal_pool]) fun k => ?_
  by_cases e : k = g
  · exact .inl (openKeys_eq_nil ((openCount_retag _ g k).trans (if_pos e)))
  · refine .inr ?_
    refine openKeys_map (takeSeal_pool s g c) k fun x => ?_
    split
    · rename_i h
      exact ⟨by simp [Entry.isOf, h, Ne.symm e], rfl, rfl⟩
    · exact ⟨rfl, rfl, rfl⟩

theorem discardOpen_opensKept (s : State) (g : GroupId) : OpensKept s (s.discardOpen g) := by
  refine .of_pool (fun _ => rfl) (List.length_filter_le _ _) fun k => ?_
  by_cases e : k = g
  · exact .inl (openKeys_eq_nil ((openCount_discardOpen s g k).trans (if_pos e)))
  · refine .inr (openKeys_filter (State.discardOpen_pool s g) k fun x hx => ?_)
    rw [Entry.isOf_iff] at hx
    simp [Entry.isOf, hx.1, e]

theorem freeSealed_opensKept (s : State) (b : DrainBinding) : OpensKept s (s.freeSealed b) := by
  refine .of_pool (fun _ => rfl) (List.length_filter_le _ _) fun k => .inr ?_
  refine openKeys_filter (s := s) rfl k fun x hx => ?_
  rw [Entry.isOf_iff] at hx
  simp [Entry.isOf, hx]

theorem modGroup_opensKept (s : State) (g : GroupId) (f : Group → Group)
    (hf : (f s.groups[g]).quota = s.groups[g].quota) : OpensKept s (s.modGroup g f) := by
  refine .of_pool (fun k => ?_) (Nat.le_refl _) fun k => .inr rfl
  rw [modGroup_get]
  split
  · rename_i e
    subst e
    exact hf
  · rfl

theorem Move.poolSound {s t : State} (h : Move s t) (hs : PoolSound s) : PoolSound t := by
  cases h
  case log => exact hs.of_opensKept (.of_eq (logRecord_groups _ _ _ _) (logRecord_pool _ _ _ _))
  case offer h => exact offer_poolSound h hs
  case discardOpen g => exact hs.of_opensKept (discardOpen_opensKept s g)
  case freeSealed b => exact hs.of_opensKept (freeSealed_opensKept s b)
  case takeSeal g c => exact hs.of_opensKept (takeSeal_opensKept s g c)
  case modSlot g f => exact hs.of_opensKept (modGroup_opensKept s g (fun r => { r with slot := r.slot.map f }) rfl)
  case freeSlot g =>
    obtain ⟨hu, hq, hk⟩ := modGroup_opensKept s g (fun r => { r with slot := none }) rfl
    exact hs.of_opensKept ⟨hu, hq, hk⟩
  case pendRetire g => exact hs.of_opensKept (modGroup_opensKept s g _ rfl)
  case count g n _ => exact hs.of_opensKept (modGroup_opensKept s g _ rfl)
  all_goals exact hs.of_opensKept (.of_eq rfl rfl)

/-! ### The changes -/

theorem issue_opensKept (s : State) {f : Entry → Entry} (h : ∀ e, f e = e ∨ f e = { e with issued := true }) :
    OpensKept s { s with pool := s.pool.map f } := by
  refine .of_pool (fun _ => rfl) (by simp) fun k => .inr (openKeys_map rfl k fun e => ?_)
  rcases h e with e | e <;> rw [e] <;> exact ⟨rfl, rfl, rfl⟩

theorem writeGroup_opensKept {s : State} {g : GroupId} {r : Group} (h : s.openCount g ≤ r.quota) :
    OpensKept s (s.modGroup g fun _ => r) := by
  refine ⟨Nat.le_refl _, fun k _ hk => ?_, fun _ => .inr rfl⟩
  rw [modGroup_get]
  split
  · rename_i e
    subst e
    exact (length_openKeys s k).trans_le h
  · exact hk

theorem kept_poolSound : Kept PoolSound where
  same h hs := hs.of_opensKept (.of_eq h.groups h.pool)
  move h hs := h.poolSound hs
  act h hs := by
    cases h
    case moves h => exact h.keeps (fun _ _ k => k.poolSound) hs
    case unseen h => exact hs.of_opensKept (.of_eq h.groups h.pool)
    case issue h => exact hs.of_opensKept (issue_opensKept _ h)
    case emptyPool =>
      exact hs.of_opensKept (.of_pool (fun _ => rfl) (Nat.zero_le _) fun _ => .inl rfl)
    case advance =>
      exact hs.of_opensKept (.of_pool (fun g => by rw [advance_group]; rfl) (Nat.le_refl _) fun _ => .inr rfl)
    case writeGroup h _ => exact hs.of_opensKept (writeGroup_opensKept h)
    case endQuiesce =>
      exact hs.of_opensKept (.of_pool (fun g => by rw [endQuiesce_group]; rfl) (Nat.le_refl _) fun _ => .inr rfl)
    all_goals exact hs.of_opensKept (.of_eq rfl rfl)
  reset _ _ := ⟨Nat.zero_le _, fun _ => Nat.zero_le _, fun _ => rfl, fun _ => List.nodup_nil⟩

/-! ### The line -/

/-- A move leaves the lines as they are, and the hold state as it is or HELD. -/
structure LineKept (s t : State) : Prop where
  inReset : t.inReset = s.inReset
  hldLow : t.hldLow = s.hldLow
  holdState : t.hold.state = s.hold.state ∨ t.hold.state = .held

theorem Move.lineKept {s t : State} (h : Move s t) : LineKept s t := by
  cases h
  case log =>
    have q := quiet_logRecord s
    exact ⟨(q _ _ _).inReset, (q _ _ _).hldLow, .inl (congrArg Hold.state (q _ _ _).hold)⟩
  case offer h =>
    have q := quiet_offer h
    exact ⟨q.inReset, q.hldLow, .inl (congrArg Hold.state q.hold)⟩
  case hold => exact ⟨rfl, rfl, .inr rfl⟩
  all_goals exact ⟨rfl, rfl, .inl rfl⟩

/-- The hold unit in step with the line, out of reset (R122 to R124). -/
structure LineInStep (s : State) : Prop where
  inReset : s.inReset = false
  clear : s.hold.state = .clear → s.hldLow = false
  filtering : s.hold.state = .filtering → s.hldLow = true

theorem LineInStep.followed {s : State} (h : LineInStep s) : s.LineFollowed :=
  ⟨fun k => absurd (h.inReset.symm.trans k) (by decide), fun _ => h.clear, fun _ => h.filtering⟩

theorem State.LineFollowed.inStep {s : State} (h : s.LineFollowed) (hr : s.inReset = false) : LineInStep s :=
  ⟨hr, h.clear hr, h.filtering hr⟩

theorem LineInStep.of_lineKept {s t : State} (hs : LineInStep s) (h : LineKept s t) : LineInStep t := by
  obtain ⟨hr, hl, hh⟩ := h
  refine ⟨hr.trans hs.inReset, fun k => ?_, fun k => ?_⟩ <;> rw [hl] <;> rcases hh with e | e <;> rw [e] at k
  · exact hs.clear k
  · cases k
  · exact hs.filtering k
  · cases k

theorem Act.inStep {s t : State} (h : Act s t) (hs : LineInStep s) : LineInStep t := by
  cases h
  case moves h => exact h.keeps (fun _ _ k h => h.of_lineKept k.lineKept) hs
  case unseen h => exact hs.of_lineKept ⟨h.inReset, h.hldLow, .inl h.holdState⟩
  case advance =>
    refine hs.of_lineKept ⟨rfl, rfl, .inl ?_⟩
    show s.hold.ticked.state = _
    unfold Hold.ticked
    split <;> rfl
  case release h => exact ⟨hs.inReset, fun _ => h, fun k => nomatch k⟩
  all_goals exact hs.of_lineKept ⟨rfl, rfl, .inl rfl⟩

/-- The line low is seen: the filter runs or the hold is entered, if the unit was CLEAR (R122, R124). -/
theorem lineAsserted_inStep {s : State} (hr : s.inReset = false) (hl : s.hldLow = true) :
    LineInStep s.lineAsserted := by
  unfold State.lineAsserted
  split
  · split
    · have h := still_enterHeld s .line
      have hh := enterHeld_hold s .line
      exact ⟨h.inReset.trans hr, fun k => (nomatch (congrArg Hold.state hh).symm.trans k),
        fun k => nomatch (congrArg Hold.state hh).symm.trans k⟩
    · exact ⟨hr, fun k => (nomatch k), fun _ => hl⟩
  · rename_i hc
    exact ⟨hr, fun k => absurd k hc, fun _ => hl⟩

/-- The line high is seen: a filter under way ends (R123). -/
theorem lineDeasserted_inStep {s : State} (hr : s.inReset = false) (hl : s.hldLow = false) :
    LineInStep s.lineDeasserted := by
  unfold State.lineDeasserted
  split
  · exact ⟨hr, fun _ => hl, fun k => nomatch k⟩
  · rename_i hf
    exact ⟨hr, fun _ => hl, fun k => absurd k hf⟩

theorem Effect.lineFollowed {s t : State} (h : Effect s t) (hs : s.LineFollowed) : t.LineFollowed := by
  cases h with
  | idle => exact hs
  | acts hr h => exact (h.keeps (fun _ _ k => k.inStep) (hs.inStep hr)).followed
  | asserted hr => exact (lineAsserted_inStep (s := { s with hldLow := true }) hr rfl).followed
  | deasserted hr => exact (lineDeasserted_inStep (s := { s with hldLow := false }) hr rfl).followed
  | level hr b => exact ⟨hs.resetting, fun k => absurd (hr.symm.trans k) (by decide),
      fun k => absurd (hr.symm.trans k) (by decide)⟩
  | chipSelect hr b => exact ⟨hs.resetting, hs.clear, hs.filtering⟩
  | reset => exact ⟨fun _ => rfl, fun k => (nomatch k), fun k => nomatch k⟩
  | ended hr hl =>
    have hc := hs.resetting hr
    exact ⟨fun k => (nomatch k), fun _ _ => hl, fun _ k => nomatch hc.symm.trans k⟩
  | endedLow hr hl => exact (lineAsserted_inStep (s := s.outOfReset) rfl hl).followed

end Sys2Proof.Machine

namespace Sys2Proof.Proofs

open Sys2Proof.Machine

/-- Settles O56: a change frees a group's OPEN entries, leaves them, or adds the next one. -/
theorem stepsKeepThePool : Obligations.StepsKeepThePool :=
  fun s t hb ha he h => (poolSound_iff t).1
    (kept_poolSound.step (fun _ _ k => ⟨k.used, k.quota, k.arrivals, k.addrs⟩) ((poolSound_iff s).2 ⟨hb, ha, he⟩) h)

/-- Settles O60: out of reset every change keeps the hold unit in step; in reset the unit stays CLEAR. -/
theorem stepsFollowTheLine : Obligations.StepsFollowTheLine := by
  intro s t hs h
  obtain ⟨l, e⟩ := step_effect h
  exact e.lineFollowed ⟨hs.resetting, hs.clear, hs.filtering⟩

end Sys2Proof.Proofs

/-! The U port with no watch selected (O4 to O7, O9 to O11, O13): the checks and the lookup as equations, then each
row of Table 8-2 as the route that `Laws/Ports` gives it. -/

namespace Sys2Proof.Machine

/-! ### The checks -/

theorem uReady_of {s : State} (hs : s.stall = none) (hq : s.quiescing = false) (hp : s.places < 32)
    (hr : s.inReset = false) : s.uReady = true := (uReady_iff s).2 ⟨hr, hs, hq, hp⟩

theorem uReady_eq_false {s : State}
    (h : s.stall ≠ none ∨ s.quiescing = true ∨ 32 ≤ s.places ∨ s.inReset = true) : s.uReady = false := by
  refine Bool.eq_false_iff.2 fun k => ?_
  obtain ⟨hr, hs, hq, hp⟩ := (uReady_iff s).1 k
  rcases h with h | h | h | h
  · exact h hs
  · simp [hq] at h
  · omega
  · simp [hr] at h

theorem aligned_iff (a : Addr) (z : Size) : aligned a z = true ↔ a.toNat % Size.bytes z = 0 := by simp [aligned]

theorem route_clash {s : State} {tag : UTag} (k : ReqKind) (a : Addr) (z : Size) (d : Lanes)
    (h : s.inFlight[tag] = true) : s.route tag k a z d = ⟨s.protocolError tag k false, .refused, none⟩ := if_pos h

theorem route_misaligned {s : State} {tag : UTag} (k : ReqKind) {a : Addr} {z : Size} (d : Lanes)
    (h : s.inFlight[tag] = false) (ha : aligned a z = false) :
    s.route tag k a z d =
      ⟨State.protocolError { s with inFlight := s.inFlight.set tag true } tag k true, .refused, none⟩ := by
  unfold State.route
  rw [if_neg (by rw [h]; exact Bool.false_ne_true)]
  exact if_pos (by rw [ha]; rfl)

/-! ### The lookup -/

theorem contains_iff (q : Region) (a : Addr) :
    q.contains a = true ↔ q.base.toNat ≤ a.toNat ∧ a.toNat < q.base.toNat + 2 ^ q.sizeCode := by
  simp [Region.contains]

/-- Two windows that hold an address overlap. -/
theorem overlaps_of_contains {q r : Region} {a : Addr} (hq : q.contains a = true) (hr : r.contains a = true) :
    q.overlaps r = true := by
  obtain ⟨ql, qh⟩ := (contains_iff q a).1 hq
  obtain ⟨rl, rh⟩ := (contains_iff r a).1 hr
  simp only [Region.overlaps, Bool.and_eq_true, decide_eq_true_eq]
  exact ⟨by omega, by omega⟩

theorem active_iff_ne_off (q : Region) : q.active = true ↔ q.state ≠ .off := by simp [Region.active]

theorem lookup_eq_none_iff (s : State) (a : Addr) :
    s.lookup a = none ↔ ∀ r : RegionId, s.regions[r].state ≠ .off → s.regions[r].contains a = false := by
  simp only [State.lookup, List.find?_eq_none, mem_allRegions, true_implies, Bool.and_eq_true, active_iff_ne_off,
    not_and, Bool.not_eq_true]

theorem active_of_lookup {s : State} {a : Addr} {r : RegionId} (h : s.lookup a = some r) :
    s.regions[r].state ≠ .off ∧ s.regions[r].contains a = true := by
  have k := List.find?_some h
  rwa [Bool.and_eq_true, active_iff_ne_off] at k

/-- With the active windows apart the lookup finds the window of an address (R4, R11). -/
theorem lookup_eq_some_iff {s : State} (hs : s.WindowsApart) (a : Addr) (r : RegionId) :
    s.lookup a = some r ↔ s.regions[r].state ≠ .off ∧ s.regions[r].contains a = true := by
  refine ⟨active_of_lookup, fun ⟨hr, hc⟩ => ?_⟩
  cases h : s.lookup a with
  | none => exact absurd hc (by rw [(lookup_eq_none_iff s a).1 h r hr]; exact Bool.false_ne_true)
  | some q =>
    obtain ⟨hq, hqc⟩ := active_of_lookup h
    by_contra hne
    have apart := hs q r (fun e => hne (congrArg some e)) ((active_iff_ne_off _).2 hq) ((active_iff_ne_off _).2 hr)
    exact absurd (overlaps_of_contains hqc hc) (by rw [apart]; exact Bool.false_ne_true)

/-! ### A request taken with no watch selected -/

/-- The request is taken, no watch selects it, and it passes the checks (R134, R136). -/
structure State.Takes (s : State) (tag : UTag) (k : ReqKind) (a : Addr) (z : Size) : Prop where
  ready : s.uReady = true
  unwatched : s.selectWatch k a = none
  free : s.inFlight[tag] = false
  aligned : aligned a z = true

theorem takes_of {s : State} {tag : UTag} {k : ReqKind} {a : Addr} {z : Size} (hs : s.stall = none)
    (hq : s.quiescing = false) (hp : s.places < 32) (hr : s.inReset = false) (hw : s.selectWatch k a = none)
    (hf : s.inFlight[tag] = false) (ha : a.toNat % Size.bytes z = 0) : s.Takes tag k a z :=
  ⟨uReady_of hs hq hp hr, hw, hf, (aligned_iff a z).2 ha⟩

theorem exec_write_route {s t : State} {tag : UTag} {a : Addr} {z : Size} {d : Lanes} {r : RegionId} {p : Path}
    (h : s.Takes tag .write a z) (hl : s.lookup a = some r)
    (hq : (s.accepted tag).routeWrite tag a z d r = ⟨t, p, none⟩) :
    exec (.upstreamRequest tag .write a z d) s = .next t :=
  execUpstreamRequest_route h.ready h.unwatched ((route_write h.free h.aligned hl).trans hq)

theorem exec_read_route {s t : State} {tag : UTag} {a : Addr} {z : Size} {d : Lanes} {r : RegionId} {p : Path}
    (h : s.Takes tag .read a z) (hl : s.lookup a = some r)
    (hq : (s.accepted tag).routeRead tag a z r = ⟨t, p, none⟩) :
    exec (.upstreamRequest tag .read a z d) s = .next t :=
  execUpstreamRequest_route h.ready h.unwatched ((route_read h.free h.aligned hl).trans hq)

theorem refusedByHold_iff (s : State) (g : GroupId) :
    s.refusedByHold g = true ↔ s.hold.state = .held ∧ s.groups[g].holdPolicy = .discard := by
  simp [State.refusedByHold, State.held]

theorem refusedByHold_eq_false {s : State} {g : GroupId}
    (h : s.hold.state ≠ .held ∨ s.groups[g].holdPolicy = .freeze) : s.refusedByHold g = false := by
  refine Bool.eq_false_iff.2 fun k => ?_
  obtain ⟨hh, hp⟩ := (refusedByHold_iff s g).1 k
  rcases h with h | h
  · exact h hh
  · rw [hp] at h
    cases h

theorem openCount_eq_length (s : State) (g : GroupId) :
    s.openCount g = (s.pool.filter fun e => decide (e.group = g ∧ e.role = .opened)).length := by
  unfold State.openCount
  rw [List.countP_eq_length_filter]
  congr 2
  funext e
  simp [Entry.isOf]

theorem mem_of_findEntry {s : State} {g : GroupId} {o : Role} {a : Addr} {e : Entry} (h : s.findEntry g o a = some e) :
    e ∈ s.pool ∧ e.group = g ∧ e.role = o ∧ e.addr = a := by
  have k := List.find?_some h
  rw [Bool.and_eq_true, Entry.isOf_iff, decide_eq_true_eq, and_assoc] at k
  exact ⟨List.mem_of_find?_eq_some h, k⟩

/-! ### Reads -/

/-- What a read can change by its routing: the tag, the responses, the tracker, the forward queue and the event unit. -/
structure ReadRouted (s : State) (q : Routed) : Prop where
  state : q.state = { s with
    inFlight := q.state.inFlight, responses := q.state.responses, tracker := q.state.tracker,
    forwardQueue := q.state.forwardQueue, events := q.state.events }
  responses : q.state.responses = s.responses ∨ ∃ r, q.state.responses = s.responses ++ [r]
  pressure : q.pressure = none

theorem route_read_routed (s : State) (tag : UTag) (a : Addr) (z : Size) (d : Lanes) :
    ReadRouted s (s.route tag .read a z d) := by
  unfold State.route
  split
  · exact ⟨rfl, .inr ⟨_, rfl⟩, rfl⟩
  · dsimp only
    split
    · exact ⟨rfl, .inr ⟨_, rfl⟩, rfl⟩
    · split
      · exact ⟨rfl, .inl rfl, rfl⟩
      · unfold State.routeRead
        dsimp only
        split
        · exact ⟨rfl, .inr ⟨_, rfl⟩, rfl⟩
        · exact ⟨rfl, .inl rfl, rfl⟩

theorem watchRequest_eq (s : State) (tag : UTag) (k : ReqKind) (a : Addr) (z : Size) (p : Path) :
    s.watchRequest tag k a z p = { s with
      watches := (s.watchRequest tag k a z p).watches, log := (s.watchRequest tag k a z p).log,
      events := (s.watchRequest tag k a z p).events } := by
  unfold State.watchRequest
  split
  · rfl
  · split
    · rw [logRecord_eq]
      rfl
    · rfl

/-! ### Lanes -/

/-- The lanes of an aligned request (R24): a finite fact about the address modulo 8. -/
theorem laneMask_lane (z : Size) : ∀ m k : Fin 8, m.val % Size.bytes z = 0 →
    (BitVec.ofNat 8 ((2 ^ Size.bytes z - 1) * 2 ^ m.val)).getLsbD k =
      decide (m.val ≤ k.val ∧ k.val < m.val + Size.bytes z) := by
  cases z <;> decide

theorem bytes_dvd (z : Size) : Size.bytes z ∣ 8 := by cases z <;> decide

theorem hasLane_laneMask {a : Addr} {z : Size} (h : a.toNat % Size.bytes z = 0) (k : Fin 8) :
    hasLane (laneMask a z) k = decide (a.toNat % 8 ≤ k.val ∧ k.val < a.toNat % 8 + Size.bytes z) :=
  laneMask_lane z ⟨a.toNat % 8, Nat.mod_lt _ (by decide)⟩ k (by rw [Nat.mod_mod_of_dvd _ (bytes_dvd z), h])

/-- Clearing the three low bits shifts them out and back. -/
theorem doubleword_eq_shift (a : Addr) : doubleword a = a >>> 3 <<< 3 := by
  have high : ∀ i : Fin 32, (~~~7#32).getLsbD i = !decide (i.val < 3) := by decide
  apply BitVec.eq_of_getLsbD_eq
  intro i hi
  have := high ⟨i, hi⟩
  dsimp only at this
  rw [doubleword, BitVec.getLsbD_and, this, BitVec.getLsbD_shiftLeft, BitVec.getLsbD_ushiftRight]
  by_cases h : i < 3
  · simp [h]
  · simp [h, hi, Nat.add_sub_cancel' (Nat.le_of_not_lt h)]

theorem doubleword_toNat (a : Addr) : (doubleword a).toNat = a.toNat - a.toNat % 8 := by
  have := a.isLt
  rw [doubleword_eq_shift, BitVec.toNat_shiftLeft, BitVec.toNat_ushiftRight, Nat.shiftRight_eq_div_pow,
    Nat.shiftLeft_eq]
  omega

end Sys2Proof.Machine

namespace Sys2Proof.Proofs

open Sys2Proof.Machine

/-- Settles O4: readiness is R134's test, and the checks come in R136's order. -/
theorem requestsWaitOrAreRefused : Obligations.RequestsWaitOrAreRefused := by
  intro s tag kind a z d
  refine ⟨fun h => execUpstreamRequest_waits tag kind a z d (uReady_eq_false h), fun hs hq hp hr hw => ⟨fun hf => ?_,
    fun hf ha => ?_⟩⟩
  · exact execUpstreamRequest_route (uReady_of hs hq hp hr) hw (route_clash kind a z d hf)
  · exact execUpstreamRequest_route (uReady_of hs hq hp hr) hw
      (route_misaligned kind d hf (Bool.eq_false_iff.2 fun k => ha ((aligned_iff a z).1 k)))

/-- Settles O5: with no window of the address the lookup finds none. -/
theorem unmatchedRequestsPassThrough : Obligations.UnmatchedRequestsPassThrough := by
  refine ⟨contains_iff, fun s a r hs => lookup_eq_some_iff hs a r, fun s tag kind a z d hs hq hp hr hw hf ha hn => ?_⟩
  exact execUpstreamRequest_route (uReady_of hs hq hp hr) hw
    (route_pass hf ((aligned_iff a z).2 ha) ((lookup_eq_none_iff s a).2 hn))

/-- Settles O6: the offer's two successes. -/
theorem stagedWritesMergeOrAllocate : Obligations.StagedWritesMergeOrAllocate := by
  refine ⟨fun s g o a => ⟨findEntry_eq_none_iff s g o a, fun e => mem_of_findEntry, openCount_eq_length s g⟩, ?_⟩
  intro s tag a z d r g hs hq hp hr hw hf ha hl hg hst hh
  subst hg
  have taken := takes_of hs hq hp hr hw hf ha
  have free := refusedByHold_eq_false (s := s.accepted tag) hh
  refine ⟨fun ⟨e, he⟩ => ?_, fun hn hlen hquota => ?_⟩
  · exact exec_write_route taken hl (routeWrite_staged free hst (offer_merges (s := s.accepted tag) z d he))
  · exact exec_write_route taken hl (routeWrite_staged free hst
      (offer_allocates (s := s.accepted tag) z d hn hlen hquota))

/-- Settles O7: a refusal by the hold, the wait for RETIRE_DRAIN, and the failed offer by the region's policy. -/
theorem writesThatAreNotStaged : Obligations.WritesThatAreNotStaged := by
  intro s tag a z d r g hs hq hp hr hw hf ha hl hg
  subst hg
  have taken := takes_of hs hq hp hr hw hf ha
  refine ⟨fun hh hd => ?_, fun hh => ⟨fun hst => ?_, fun hst hn hfull hpress => ?_⟩⟩
  · exact exec_write_route taken hl (routeWrite_held ((refusedByHold_iff (s.accepted tag) _).2 ⟨hh, hd⟩))
  · exact exec_write_route taken hl (routeWrite_retireDrain (refusedByHold_eq_false (s := s.accepted tag) hh) hst)
  · have failed := routeWrite_failed (tag := tag) (refusedByHold_eq_false (s := s.accepted tag) hh) hst
      (offer_fails (s := s.accepted tag) z d hn hfull)
    have quiet : (s.accepted tag).wantsPressure s.regions[r].group = false := by
      show (s.groups[s.regions[r].group].pressureSeal && decide (0 < s.openCount s.regions[r].group)) = false
      rcases hpress with h | h
      · rw [h, Bool.false_and]
      · rw [h, decide_eq_false (Nat.lt_irrefl 0), Bool.and_false]
    have hpol : ∀ q, s.regions[r].policy = q → (s.accepted tag).regions[r].policy = q := fun _ h => h
    dsimp only at failed
    rw [show (s.accepted tag).regions[r].group = s.regions[r].group from rfl, quiet] at failed
    refine ⟨fun h => ?_, fun h => ?_⟩
    · rw [hpol _ h] at failed
      exact exec_write_route taken hl failed
    · rw [hpol _ h] at failed
      exact exec_write_route taken hl failed

/-- Settles O9: the snapshot decides between the local answer and the tracker record. -/
theorem readsAreLocalOrForwarded : Obligations.ReadsAreLocalOrForwarded := by
  intro s tag a z d r hs hq hp hr hw hf ha hl
  have taken := takes_of hs hq hp hr hw hf ha
  exact ⟨fun h => exec_read_route taken hl (routeRead_local (s := s.accepted tag) h),
    fun h => exec_read_route taken hl (routeRead_forwarded (s := s.accepted tag) h)⟩

/-- Settles O10: each lane of the two entries' masks, cut to the request's lanes. -/
theorem snapshotFollowsTheView : Obligations.SnapshotFollowsTheView := by
  intro s r a z k opened sld o c hopened hsld ho hc
  subst ho hc
  refine ⟨fun h => ?_, fun hst hv => ?_⟩
  · have hno : ¬(r.view = .staged ∧ r.state ≠ .retireDrain) := by
      rintro ⟨hv, hst⟩
      rcases h with h | h
      · exact hst h
      · rw [h] at hv
        cases hv
    simp only [State.snapshot, if_neg hno, hsld]
    cases sld <;> simp [-Fin.getElem_fin, mergeLanes_get, maskLanes_get, Bool.and_comm]
  · simp only [State.snapshot, if_pos (And.intro hv hst), hsld, hopened]
    cases sld <;> cases opened <;> simp [-Fin.getElem_fin, mergeLanes_get, maskLanes_get, Bool.and_comm]

/-- Settles O11: a read's route and its watch touch neither the pool nor the groups, nor make a PRESSURE request. -/
theorem readsLeaveStagedStateAlone : Obligations.ReadsLeaveStagedStateAlone := by
  intro s t tag a z d h
  change execUpstreamRequest tag .read a z d s = .next t at h
  unfold execUpstreamRequest at h
  split at h
  · obtain ⟨hst, hresp, hpr⟩ := route_read_routed { s with places := s.places + 1 } tag a z d
    dsimp only at h
    rw [hpr, watchRequest_eq] at h
    cases h
    dsimp only
    generalize ({ s with places := s.places + 1 } : State).route tag .read a z d = q at hst hresp
    rw [hst]
    exact ⟨rfl, rfl, rfl, rfl, rfl, rfl, rfl, rfl, rfl, rfl, rfl, rfl, rfl, rfl, hresp⟩
  · cases h
    exact ⟨rfl, rfl, rfl, rfl, rfl, rfl, rfl, rfl, rfl, rfl, rfl, rfl, rfl, rfl, .inl rfl⟩

/-- Settles O13: the lanes of an aligned request, and the merge lane by lane. -/
theorem lanesOfARequest : Obligations.LanesOfARequest :=
  ⟨fun _ _ k h => hasLane_laneMask h k, doubleword_toNat, fun e m d k =>
    ⟨mergeLanes_get m d e.data k, hasLane_or e.mask m k, rfl, rfl, rfl, rfl⟩⟩

end Sys2Proof.Proofs

/-! A PRESSURE request (O8): the write's own disposal first, then the seal, if the group can seal. The event unit's
flags and counters by name, as later proofs read them. -/

namespace Sys2Proof.Machine

/-! ### The event unit by name -/

/-- The counter of a place. -/
def Counter.ofIndex (i : Nat) : Counter :=
  if h : i < 4 then .seals ⟨i, h⟩
  else if h : i - 4 < 4 then .overruns ⟨i - 4, h⟩
  else if h : i - 8 < 4 then .suppressed ⟨i - 8, h⟩
  else if h : i - 12 < 4 then .discarded ⟨i - 12, h⟩
  else if h : i - 16 < 4 then .drainFaults ⟨i - 16, h⟩
  else match i - 20 with
    | 0 => .stallTimeouts
    | 1 => .refusedWrites
    | 2 => .logLostTotal
    | 3 => .protocolErrors
    | 4 => .strayResponses
    | _ => .holdFiltered

theorem Counter.ofIndex_index (c : Counter) : Counter.ofIndex c.index = c := by
  cases c with
  | seals g | overruns g | suppressed g | discarded g | drainFaults g => revert g; decide
  | _ => rfl

theorem Counter.index_eq_iff {c k : Counter} : c.index = k.index ↔ c = k :=
  ⟨fun h => by rw [← c.ofIndex_index, h, k.ofIndex_index], congrArg _⟩

/-- The flag of a position. -/
def Flag.ofPos (i : Nat) : Flag :=
  if h : i < 4 then .done ⟨i, h⟩
  else if h : i - 4 < 4 then .overrun ⟨i - 4, h⟩
  else match i - 8 with
    | 0 => .stallTimeout
    | 1 => .refused
    | 2 => .drainFault
    | 3 => .holdOn
    | 4 => .logWatermark
    | 5 => .logLoss
    | 6 => .protocol
    | _ => .quiesced

theorem Flag.ofPos_pos (f : Flag) : Flag.ofPos f.pos = f := by
  cases f with
  | done g | overrun g => revert g; decide
  | _ => rfl

theorem Flag.pos_eq_iff {f k : Flag} : f.pos = k.pos ↔ f = k :=
  ⟨fun h => by rw [← f.ofPos_pos, h, k.ofPos_pos], congrArg _⟩

/-- Raising a counter moves it and no other (R183). -/
theorem counter_bump (s : State) (c k : Counter) (n : Nat) :
    (s.bump c n).counter k = if k = c then satAdd (s.counter c) n else s.counter k := by
  split
  · rename_i h
    subst h
    exact counter_bump_self s k n
  · rename_i h
    exact counter_bump_ne s n fun e => h (Counter.index_eq_iff.1 e).symm

/-- Raising a flag sets it and no other (R180). -/
theorem flagSet_raise (s : State) (f k : Flag) : (s.raise f).flagSet k = (s.flagSet k || decide (k = f)) := by
  by_cases h : k = f
  · subst h
    simp
  · rw [flagSet_raise_ne s fun e => h (Flag.pos_eq_iff.1 e).symm, decide_eq_false h, Bool.or_false]

theorem counter_logRecord_ne (s : State) (i : Fin 4) (ts : Stamp) (b : LogBody) {c : Counter} (h : c ≠ .logLostTotal) :
    (s.logRecord i ts b).counter c = s.counter c :=
  counter_logRecord s i ts b fun e => h (Counter.index_eq_iff.1 e)

/-- A record handed to the log raises no flag but LOG_WATERMARK and LOG_LOSS (R161, R163). -/
theorem flagSet_logRecord_ne (s : State) (i : Fin 4) (ts : Stamp) (b : LogBody) {f : Flag} (hw : f ≠ .logWatermark)
    (hl : f ≠ .logLoss) : (s.logRecord i ts b).flagSet f = s.flagSet f := by
  unfold State.logRecord
  split
  · rfl
  · split
    · dsimp only
      split
      · rw [flagSet_raise, decide_eq_false hw, Bool.or_false]
        rfl
      · rfl
    · rw [flagSet_raise, decide_eq_false hl, Bool.or_false]
      rfl

/-- What a record does to a counter follows from the log and that counter. -/
theorem counter_logRecord_congr {s t : State} (hl : t.log = s.log) {c : Counter} (hc : t.counter c = s.counter c)
    (i : Fin 4) (ts : Stamp) (b : LogBody) : (t.logRecord i ts b).counter c = (s.logRecord i ts b).counter c := by
  unfold State.logRecord
  rw [hl]
  split
  · exact hc
  · split
    · dsimp only
      split <;> exact hc
    · rw [counter_raise, counter_raise, counter_bump, counter_bump]
      split
      · rename_i h
        subst h
        exact congrArg (satAdd · 1) hc
      · exact hc

/-- What a record does to a flag follows from the log and that flag. -/
theorem flagSet_logRecord_congr {s t : State} (hl : t.log = s.log) {f : Flag} (hf : t.flagSet f = s.flagSet f)
    (i : Fin 4) (ts : Stamp) (b : LogBody) : (t.logRecord i ts b).flagSet f = (s.logRecord i ts b).flagSet f := by
  unfold State.logRecord
  rw [hl]
  split
  · exact hf
  · split
    · dsimp only
      split
      · rw [flagSet_raise, flagSet_raise]
        exact congrArg (· || _) hf
      · exact hf
    · rw [flagSet_raise, flagSet_raise]
      exact congrArg (· || _) hf

/-! ### A seal and a judgement, at the event unit -/

theorem judge_events (s : State) : s.judge.1.events = s.events := by
  unfold State.judge
  split
  · rfl
  · dsimp only
    split
    · rfl
    · rfl
    all_goals
      split
      · rename_i h
        rcases offer_cases h with ⟨_, _, rfl⟩ | ⟨_, _, _, rfl⟩ <;> rfl
      · rfl

/-- A seal moves no counter but SEALS(g) and LOG_LOST_TOTAL (R84). -/
theorem counter_sealGroup_ne (s : State) {g : GroupId} {k : Counter} (hk : k ≠ .seals g) (hl : k ≠ .logLostTotal)
    (c : SealCause) (ts : Stamp) : (s.sealGroup g c ts).counter k = s.counter k := by
  have reported : ∀ b, (((s.takeSeal g c).takeFence g (s.openCount g)).reportSeal g ts b).counter k = s.counter k := by
    intro b
    rw [State.reportSeal, counter_logRecord_ne _ _ _ _ hl, counter_bump, if_neg hk, takeFence_eq]
    rfl
  unfold State.sealGroup
  dsimp only
  split
  · rw [becomeReady_eq]
    exact reported _
  · exact reported _

/-! ### The PRESSURE request -/

theorem canSeal_iff (s : State) (g : GroupId) :
    s.canSeal g = true ↔ s.hold.state ≠ .held ∧ s.quiescing = false ∧ s.groups[g].slot = none := by
  simp [State.canSeal, State.held, and_assoc]

theorem pressureRequest_of_canSeal {s : State} {g : GroupId} (h : s.canSeal g = true) :
    s.pressureRequest g = (s.sealGroup g .pressure s.now).judge.1 := if_pos h

/-- HELD, quiescing or with the slot occupied the request leaves nothing behind (R72, R75). -/
theorem pressureRequest_idle {s : State} {g : GroupId} (h : s.canSeal g = false) : s.pressureRequest g = s :=
  if_neg (by rw [h]; exact Bool.false_ne_true)

theorem counter_pressureRequest_ne (s : State) {g : GroupId} {k : Counter} (hk : k ≠ .seals g) (hl : k ≠ .logLostTotal) :
    (s.pressureRequest g).counter k = s.counter k := by
  unfold State.pressureRequest
  split
  · rw [show State.counter _ k = (s.sealGroup g .pressure s.now).counter k by
      unfold State.counter
      rw [judge_events]]
    exact counter_sealGroup_ne s hk hl _ _
  · rfl

theorem flagSet_pressureRequest_of_set {s : State} (g : GroupId) {f : Flag} (h : s.flagSet f = true) :
    (s.pressureRequest g).flagSet f = true := by
  unfold State.pressureRequest
  split
  · rw [show State.flagSet _ f = (s.sealGroup g .pressure s.now).flagSet f by
      unfold State.flagSet
      rw [judge_events]]
    exact flagSet_sealGroup_of_set s g _ _ f h
  · exact h

/-- With no write stalled the seal of the request is all there is. -/
theorem pressureRequest_of_no_stall {s : State} {g : GroupId} (h : s.canSeal g = true) (hs : s.stall = none) :
    s.pressureRequest g = s.sealGroup g .pressure s.now := by
  rw [pressureRequest_of_canSeal h]
  unfold State.judge
  rw [(sealGroup_stall s g _ _).trans hs]

/-! ### A write that makes a PRESSURE request -/

/-- A staged write of the group that finds no entry and makes a PRESSURE request (R27, R29). -/
structure State.Asks (s : State) (a : Addr) (r : RegionId) (g : GroupId) : Prop where
  region : s.lookup a = some r
  group : s.regions[r].group = g
  stages : s.regions[r].state = .staging ∨ s.regions[r].state = .retireWait
  taken : s.hold.state ≠ .held ∨ s.groups[g].holdPolicy = .freeze
  missing : s.findEntry g .opened (doubleword a) = none
  full : 64 ≤ s.pool.length ∨ s.groups[g].quota ≤ s.openCount g
  enabled : s.groups[g].pressureSeal = true
  entries : 0 < s.openCount g

/-- The write's own disposal, by the policy of its region (R27, R28, R32). -/
theorem routeWrite_asks {s : State} {a : Addr} {r : RegionId} {g : GroupId} (h : s.Asks a r g) (tag : UTag) (z : Size)
    (d : Lanes) :
    s.routeWrite tag a z d r = match s.regions[r].policy with
      | .stall => ⟨s.enterStall tag a z d r .noEntry, .stalled, some g⟩
      | .reject => ⟨s.refuseWrite tag, .refused, some g⟩ := by
  obtain ⟨-, rfl, hst, hh, hm, hf, he, hn⟩ := h
  have wants : s.wantsPressure s.regions[r].group = true := by
    unfold State.wantsPressure
    rw [he, decide_eq_true hn]
    rfl
  rw [routeWrite_failed (refusedByHold_eq_false hh) hst (offer_fails z d hm hf)]
  dsimp only
  rw [if_pos wants] <;> rfl

/-- A taken request that makes a PRESSURE request leaves what the request leaves of its route (R134, R137). -/
theorem exec_pressure {s t : State} {tag : UTag} {a : Addr} {z : Size} {d : Lanes} {r : RegionId} {g : GroupId}
    {p : Path} (h : s.Takes tag .write a z) (hl : s.lookup a = some r)
    (hq : (s.accepted tag).routeWrite tag a z d r = ⟨t, p, some g⟩) :
    exec (.upstreamRequest tag .write a z d) s = .next (t.pressureRequest g) := by
  have routed := (route_write h.free h.aligned hl).trans hq
  have unwatched : t.selectWatch .write a = none := by
    refine (selectWatch_congr ?_ _ _).trans h.unwatched
    have k := route_watches { s with places := s.places + 1 } tag .write a z d
    rwa [routed] at k
  change execUpstreamRequest tag .write a z d s = _
  unfold execUpstreamRequest
  rw [if_pos h.ready]
  simp only [routed]
  rw [watchRequest_none unwatched]

/-- What the request leaves where the write is refused (R28, R75). -/
theorem refused_pressure_leaves {s : State} {a : Addr} {r : RegionId} {g : GroupId} (h : s.Asks a r g) (tag : UTag)
    (hst : s.stall = none) (hc : s.canSeal g = true) :
    SealLeaves s ((s.refuseWrite tag).pressureRequest g) g .pressure s.now ∧
      ((s.refuseWrite tag).pressureRequest g).stall = none ∧
      ((s.refuseWrite tag).pressureRequest g).responses = (s.refuseWrite tag).responses ∧
      ((s.refuseWrite tag).pressureRequest g).pool = s.pool.map fun e =>
        if e.group = g ∧ e.role = .opened then { e with role := .sealed, issued := false } else e := by
  obtain ⟨hh, hq, hs⟩ := (canSeal_iff s g).1 hc
  have L := sealGroup_leaves (s := s.refuseWrite tag) (g := g) .pressure s.now h.entries hq
  have seals : s.counter (.seals g) = (s.refuseWrite tag).counter (.seals g) := by
    rw [State.refuseWrite, counter_raise, counter_bump, if_neg (by simp)]
    rfl
  rw [pressureRequest_of_no_stall (s := s.refuseWrite tag) hc hst]
  refine ⟨L.congr_left rfl rfl rfl rfl rfl rfl rfl rfl seals rfl rfl rfl rfl rfl,
    (sealGroup_stall _ _ _ _).trans hst, ?_, ?_⟩
  · rw [sealGroup_eq]
  · rw [sealGroup_eq]
    exact takeSeal_pool _ _ _

/-- What the request leaves where the write waits, and what becomes of the write (R29, R33). -/
theorem stalled_pressure_leaves {s : State} {a : Addr} {r : RegionId} {g : GroupId} (h : s.Asks a r g) (tag : UTag)
    (z : Size) (d : Lanes) (hc : s.canSeal g = true) :
    (s.enterStall tag a z d r .noEntry).pressureRequest g = (s.enterStall tag a z d r .noEntry).retry ∧
      SealLeaves s ((s.enterStall tag a z d r .noEntry).pressureRequest g) g .pressure s.now := by
  obtain ⟨hh, hq, hs⟩ := (canSeal_iff s g).1 hc
  have retried := retry_pressure (s := s.enterStall tag a z d r .noEntry) rfl h.group h.stages h.missing h.full
    h.enabled h.entries hh hq hs
  have L := (retry_pressure_leaves (s := s.enterStall tag a z d r .noEntry) rfl h.group h.stages h.missing h.full
    h.enabled h.entries hh hq hs).1
  rw [pressureRequest_of_canSeal (s := s.enterStall tag a z d r .noEntry) hc, ← retried]
  exact ⟨rfl, L.congr_left rfl rfl rfl rfl rfl rfl rfl rfl rfl rfl rfl rfl rfl rfl⟩

end Sys2Proof.Machine

namespace Sys2Proof.Proofs

open Sys2Proof.Machine

/-- Settles O8: the disposal by the policy, then the request: idle, or the seal with the write offered again. -/
theorem pressureSealsTheFullGroup : Obligations.PressureSealsTheFullGroup := by
  intro s tag a z d r g hs hq hp hr hw hf ha hl hg hst hh hm hfull he hn
  have taken := takes_of hs hq hp hr hw hf ha
  have asks : (s.accepted tag).Asks a r g := ⟨hl, hg, hst, hh, hm, hfull, he, hn⟩
  have routed := routeWrite_asks asks tag z d
  have stalls : s.regions[r].policy = .stall → (s.accepted tag).routeWrite tag a z d r =
      ⟨(s.accepted tag).enterStall tag a z d r .noEntry, .stalled, some g⟩ := by
    intro k
    rw [routed, show (s.accepted tag).regions[r].policy = .stall from k]
  have refuses : s.regions[r].policy = .reject → (s.accepted tag).routeWrite tag a z d r =
      ⟨(s.accepted tag).refuseWrite tag, .refused, some g⟩ := by
    intro k
    rw [routed, show (s.accepted tag).regions[r].policy = .reject from k]
  refine ⟨fun hno => ?idle, fun hheld hslot => ?seals⟩
  case idle =>
    have idle : s.canSeal g = false := by
      refine Bool.eq_false_iff.2 fun k => ?_
      obtain ⟨h1, -, h3⟩ := (canSeal_iff s g).1 k
      exact hno.elim h1 fun h => h h3
    refine ⟨fun k => ?_, fun k => ?_⟩
    · rw [exec_pressure taken hl (stalls k),
        pressureRequest_idle (s := (s.accepted tag).enterStall tag a z d r .noEntry) idle]
      rfl
    · rw [exec_pressure taken hl (refuses k), pressureRequest_idle (s := (s.accepted tag).refuseWrite tag) idle]
      rfl
  case seals =>
    have can : s.canSeal g = true := (canSeal_iff s g).2 ⟨hheld, hq, hslot⟩
    cases hpol : s.regions[r].policy with
    | reject =>
      obtain ⟨L, estall, eresp, epool⟩ := refused_pressure_leaves asks tag hs can
      have Q := quiet_pressureRequest ((s.accepted tag).refuseWrite tag) g
      refine ⟨_, exec_pressure taken hl (refuses hpol), ?_, Q.places, Q.inFlight, Q.timebase, Q.hold, Q.watches,
        Q.channel, Q.drainTags, Q.port, fun sealed hsealed => ⟨fun _ => ?_, fun k => by cases k⟩⟩
      · exact L.congr_left rfl rfl rfl rfl rfl rfl rfl rfl rfl rfl rfl rfl rfl rfl
      · refine ⟨estall, epool.trans hsealed.symm, eresp, ?_, ?_⟩
        · rw [counter_pressureRequest_ne _ (by simp) (by simp), State.refuseWrite, counter_raise, counter_bump_self]
          rfl
        · exact flagSet_pressureRequest_of_set g (flagSet_raise_self _ _)
    | stall =>
      let y := (s.accepted tag).enterStall tag a z d r .noEntry
      obtain ⟨retried, L⟩ := stalled_pressure_leaves asks tag z d can
      have wait := (retry_pressure_leaves (s := y) rfl hg hst hm hfull he hn hheld hq hslot).2
      have Q := quiet_pressureRequest y g
      refine ⟨y.pressureRequest g, exec_pressure taken hl (stalls hpol), ?_, Q.places, Q.inFlight, Q.timebase, Q.hold,
        Q.watches, Q.channel, Q.drainTags, Q.port, fun sealed hsealed => ⟨fun k => by (cases k), fun _ => ?_⟩⟩
      · exact L.congr_left rfl rfl rfl rfl rfl rfl rfl rfl rfl rfl rfl rfl rfl rfl
      · rw [show y.pressureRequest g = y.retry from retried]
        obtain ⟨hfullPool, hretire, hroom⟩ := wait sealed hsealed
        refine ⟨?_, fun h => ?_, fun h hlen => ?_, fun h hlen hquota => ?_⟩
        · rw [← show y.pressureRequest g = y.retry from retried]
          exact counter_pressureRequest_ne _ (by simp) (by simp)
        · obtain ⟨e1, e2, e3⟩ := hretire h
          exact ⟨e2, e3, e1⟩
        · obtain ⟨e1, e2, e3⟩ := hfullPool h hlen
          exact ⟨e2, e3, e1⟩
        · exact hroom h hlen hquota

end Sys2Proof.Proofs

/-! The watches (O12): no route, seal or judgement reads the watches, nor anything but the seal's own report the log
and the event unit. So a watched request does what an unwatched one does, and the records follow from the log. -/

namespace Sys2Proof.Machine

/-! ### Other watches, another log -/

/-- The state with other watches. -/
def State.withWatches (s : State) (ws : Vector Watch 4) : State := { s with watches := ws }

/-- The state with other watches, another log and another event unit. -/
def State.noted (s : State) (ws : Vector Watch 4) (l : Log) (e : Events) : State :=
  { s with watches := ws, log := l, events := e }

/-- What becomes of a request does not depend on the watches. -/
def Routed.withWatches (q : Routed) (ws : Vector Watch 4) : Routed :=
  { q with state := q.state.withWatches ws }

theorem offer_noted (s : State) (ws : Vector Watch 4) (l : Log) (ev : Events) (g : GroupId) (a : Addr) (z : Size)
    (d : Lanes) : (s.noted ws l ev).offer g a z d = (s.offer g a z d).map fun t => t.noted ws l ev := by
  cases hf : s.findEntry g .opened (doubleword a) with
  | some e => rw [offer_merges z d hf, offer_merges (s := s.noted ws l ev) z d hf]; rfl
  | none =>
    by_cases hc : s.pool.length < 64 ∧ s.openCount g < s.groups[g].quota
    · obtain ⟨hlen, hquota⟩ := hc
      rw [offer_allocates z d hf hlen hquota, offer_allocates (s := s.noted ws l ev) z d hf hlen hquota]
      rfl
    · have full : 64 ≤ s.pool.length ∨ s.groups[g].quota ≤ s.openCount g := by omega
      rw [offer_fails z d hf full, offer_fails (s := s.noted ws l ev) z d hf full]
      rfl

theorem offer_withWatches (s : State) (ws : Vector Watch 4) (g : GroupId) (a : Addr) (z : Size) (d : Lanes) :
    (s.withWatches ws).offer g a z d = (s.offer g a z d).map fun t => t.withWatches ws := by
  rw [show s.withWatches ws = s.noted ws s.log s.events from rfl, offer_noted]
  cases h : s.offer g a z d with
  | none => rfl
  | some t => rcases offer_cases h with ⟨_, _, rfl⟩ | ⟨_, _, _, rfl⟩ <;> rfl

theorem routeWrite_withWatches (s : State) (ws : Vector Watch 4) (tag : UTag) (a : Addr) (z : Size) (d : Lanes)
    (r : RegionId) : (s.withWatches ws).routeWrite tag a z d r = (s.routeWrite tag a z d r).withWatches ws := by
  unfold State.routeWrite
  simp only [show (s.withWatches ws).regions = s.regions from rfl, show (s.withWatches ws).groups = s.groups from rfl,
    show (s.withWatches ws).held = s.held from rfl, offer_withWatches]
  split
  · rfl
  · cases s.regions[r].state with
    | off | retireDrain => rfl
    | staging | retireWait =>
      cases s.offer s.regions[r].group a z d with
      | some t => rfl
      | none => cases s.regions[r].policy <;> rfl

theorem routeRead_withWatches (s : State) (ws : Vector Watch 4) (tag : UTag) (a : Addr) (z : Size) (r : RegionId) :
    (s.withWatches ws).routeRead tag a z r = (s.routeRead tag a z r).withWatches ws := by
  by_cases h : (s.snapshot s.regions[r] a z).1 = laneMask a z
  · rw [routeRead_local h, routeRead_local (s := s.withWatches ws) h]
    rfl
  · rw [routeRead_forwarded h, routeRead_forwarded (s := s.withWatches ws) h]
    rfl

theorem route_withWatches (s : State) (ws : Vector Watch 4) (tag : UTag) (k : ReqKind) (a : Addr) (z : Size)
    (d : Lanes) : (s.withWatches ws).route tag k a z d = (s.route tag k a z d).withWatches ws := by
  unfold State.route
  simp only [show (s.withWatches ws).inFlight = s.inFlight from rfl]
  split
  · rfl
  · split
    · rfl
    · have seen : State.lookup { s.withWatches ws with inFlight := s.inFlight.set tag true } a =
        State.lookup { s with inFlight := s.inFlight.set tag true } a := rfl
      rw [seen]
      cases State.lookup { s with inFlight := s.inFlight.set tag true } a with
      | none => rfl
      | some r =>
        cases k with
        | write => exact routeWrite_withWatches { s with inFlight := s.inFlight.set tag true } ws tag a z d r
        | read => exact routeRead_withWatches { s with inFlight := s.inFlight.set tag true } ws tag a z r

theorem judge_noted (s : State) (ws : Vector Watch 4) (l : Log) (e : Events) :
    (s.noted ws l e).judge = (s.judge.1.noted ws l e, s.judge.2) := by
  unfold State.judge
  rw [show (s.noted ws l e).stall = s.stall from rfl]
  split
  · rfl
  · rename_i w _
    simp only [show (s.noted ws l e).regions = s.regions from rfl, offer_noted]
    cases s.regions[w.region].state with
    | off | retireDrain => rfl
    | staging | retireWait => cases s.offer s.regions[w.region].group w.addr w.size w.data <;> rfl

theorem startDrain_noted (s : State) (ws : Vector Watch 4) (l : Log) (e : Events) :
    (s.noted ws l e).startDrain = s.startDrain.noted ws l e := by
  unfold State.startDrain
  rw [show (s.noted ws l e).ready = s.ready from rfl]
  split
  · rfl
  · rename_i g _ _
    rw [show (s.noted ws l e).quiescing = s.quiescing from rfl, show (s.noted ws l e).phase g = s.phase g from rfl]
    split <;> rfl

theorem becomeReady_noted (s : State) (ws : Vector Watch 4) (l : Log) (e : Events) (g : GroupId) :
    (s.noted ws l e).becomeReady g = (s.becomeReady g).noted ws l e :=
  let t := s.modSlot g fun sl => { sl with phase := .ready }
  startDrain_noted { t with ready := t.ready ++ [g] } ws l e

theorem takeFence_noted (s : State) (ws : Vector Watch 4) (l : Log) (e : Events) (g : GroupId) (n : Nat) :
    (s.noted ws l e).takeFence g n = (s.takeFence g n).noted ws l e := by
  simp only [State.takeFence]
  split <;> rfl

/-- What a record does to the log and the event unit follows from these two. -/
theorem logRecord_noted (s : State) (ws : Vector Watch 4) (l : Log) (e : Events) (i : Fin 4) (ts : Stamp) (b : LogBody)
    {u : State} (hl : u.log = l) (he : u.events = e) :
    (s.noted ws l e).logRecord i ts b = s.noted ws (u.logRecord i ts b).log (u.logRecord i ts b).events := by
  subst hl he
  unfold State.logRecord
  simp only [show (s.noted ws u.log u.events).log = u.log from rfl]
  split
  · rfl
  · split
    · split <;> rfl
    · rfl

/-- The report of a seal of the group from s (R84): the counter and the record. -/
def State.sealReport (s : State) (g : GroupId) (c : SealCause) (ts : Stamp) (f : Nat) : State :=
  s.reportSeal g ts (.sealed s.groups[g].openGen (s.openCount g) c f)

/-- A seal with another log leaves the same but for its report. -/
theorem sealGroup_noted (s : State) (ws : Vector Watch 4) (l : Log) (e : Events) {g : GroupId} (c : SealCause)
    (ts : Stamp) (hn : 0 < s.openCount g) :
    (s.noted ws l e).sealGroup g c ts = (s.sealGroup g c ts).noted ws
      ((s.noted ws l e).sealReport g c ts (s.fenceMembers g)).log
      ((s.noted ws l e).sealReport g c ts (s.fenceMembers g)).events := by
  have counted := fenceCount_takeSeal c hn
  have fenced := takeFence_noted (s.takeSeal g c) ws l e g (s.openCount g)
  unfold State.sealGroup
  simp only [show (s.noted ws l e).takeSeal g c = (s.takeSeal g c).noted ws l e from rfl,
    show (s.noted ws l e).openCount g = s.openCount g from rfl, show (s.noted ws l e).groups = s.groups from rfl,
    show ((s.takeSeal g c).noted ws l e).fenceCount g (s.openCount g) = (s.takeSeal g c).fenceCount g (s.openCount g)
      from rfl, counted, fenced]
  generalize (s.takeSeal g c).takeFence g (s.openCount g) = t
  have reported : (t.noted ws l e).reportSeal g ts (.sealed s.groups[g].openGen (s.openCount g) c (s.fenceMembers g)) =
      (t.reportSeal g ts (.sealed s.groups[g].openGen (s.openCount g) c (s.fenceMembers g))).noted ws
        ((s.noted ws l e).sealReport g c ts (s.fenceMembers g)).log
        ((s.noted ws l e).sealReport g c ts (s.fenceMembers g)).events := by
    rw [reportSeal_eq t]
    exact logRecord_noted t ws l _ g ts _ (u := (s.noted ws l e).bump (.seals g) 1) rfl rfl
  rw [reported]
  split
  · exact becomeReady_noted _ ws _ _ g
  · rfl

/-- A PRESSURE request that seals, with another log: the same but for the report of the seal. -/
theorem pressureRequest_noted (s : State) (ws : Vector Watch 4) (l : Log) (e : Events) {g : GroupId}
    (hn : 0 < s.openCount g) (hc : s.canSeal g = true) :
    (s.noted ws l e).pressureRequest g = (s.pressureRequest g).noted ws
      ((s.noted ws l e).sealReport g .pressure s.now (s.fenceMembers g)).log
      ((s.noted ws l e).sealReport g .pressure s.now (s.fenceMembers g)).events := by
  rw [pressureRequest_of_canSeal hc, pressureRequest_of_canSeal (s := s.noted ws l e) hc,
    show (s.noted ws l e).now = s.now from rfl, sealGroup_noted s ws l e _ _ hn, judge_noted]

/-! ### The path that a request is reported with -/

theorem not_frozen {s : State} {g : GroupId} (h : s.hold.state ≠ .held) :
    s.hold.state ≠ .held ∨ s.groups[g].holdPolicy = .freeze := .inl h

/-- A request on its way: the path, and the PRESSURE request that goes with it, if it makes one. -/
structure Routes (s : State) (tag : UTag) (k : ReqKind) (a : Addr) (z : Size) (p : Path) (q : Routed) : Prop where
  path : q.path = p
  pressure : ∀ g, q.pressure = some g → q.state.groups = s.groups ∧ q.state.hold = s.hold ∧
    (s.hold.state ≠ .held → s.groups[g].slot = none → PressureSeals s tag a z k g)

theorem Routes.plain {s : State} {tag : UTag} {k : ReqKind} {a : Addr} {z : Size} {p : Path} {q : Routed} {t : State}
    (h : q = ⟨t, p, none⟩) : Routes s tag k a z p q := by
  subst h
  exact ⟨rfl, fun _ k => by cases k⟩

/-- The path of Table 8-2 is the path of the route. -/
theorem PathTaken.routes {s : State} {tag : UTag} {k : ReqKind} {a : Addr} {z : Size} {p : Path}
    (h : PathTaken s tag a z k p) (d : Lanes) :
    Routes s tag k a z p (({ s with places := s.places + 1 } : State).route tag k a z d) := by
  cases h with
  | clash hf => exact .plain (route_clash (s := { s with places := s.places + 1 }) k a z d hf)
  | misaligned hf ha =>
    exact .plain (route_misaligned (s := { s with places := s.places + 1 }) k d hf
      (Bool.eq_false_iff.2 fun k => ha ((aligned_iff a z).1 k)))
  | pass hf ha hn => exact .plain (route_pass hf ((aligned_iff a z).2 ha) ((lookup_eq_none_iff s a).2 hn))
  | localRead r hf ha hl hc =>
    exact .plain ((route_read hf ((aligned_iff a z).2 ha) hl).trans (routeRead_local (s := s.accepted tag) hc))
  | forwarded r hf ha hl hc =>
    exact .plain ((route_read hf ((aligned_iff a z).2 ha) hl).trans (routeRead_forwarded (s := s.accepted tag) hc))
  | held r hf ha hl hh hd =>
    exact .plain ((route_write hf ((aligned_iff a z).2 ha) hl).trans
      (routeWrite_held ((refusedByHold_iff (s.accepted tag) _).2 ⟨hh, hd⟩)))
  | retiring r hf ha hl hh hst =>
    exact .plain ((route_write hf ((aligned_iff a z).2 ha) hl).trans
      (routeWrite_retireDrain (refusedByHold_eq_false (s := s.accepted tag) hh) hst))
  | staged r hf ha hl hh hst hroom =>
    have free := refusedByHold_eq_false (s := s.accepted tag) hh
    cases he : s.findEntry s.regions[r].group .opened (doubleword a) with
    | some e =>
      exact .plain ((route_write hf ((aligned_iff a z).2 ha) hl).trans
        (routeWrite_staged free hst (offer_merges (s := s.accepted tag) z d he)))
    | none =>
      obtain ⟨hlen, hquota⟩ := hroom.resolve_left fun k => k he
      exact .plain ((route_write hf ((aligned_iff a z).2 ha) hl).trans
        (routeWrite_staged free hst (offer_allocates (s := s.accepted tag) z d he hlen hquota)))
  | full r hf ha hl hh hst hm hfull =>
    rw [route_write hf ((aligned_iff a z).2 ha) hl, routeWrite_failed (refusedByHold_eq_false (s := s.accepted tag) hh)
      hst (offer_fails (s := s.accepted tag) z d hm hfull)]
    have asked : ∀ g, (if (s.accepted tag).wantsPressure s.regions[r].group = true then some s.regions[r].group
        else none) = some g → s.hold.state ≠ .held → s.groups[g].slot = none → PressureSeals s tag a z .write g := by
      intro g hg hheld hslot
      split at hg
      · rename_i hw
        cases hg
        obtain ⟨he, hn⟩ := Bool.and_eq_true_iff.1 hw
        exact ⟨rfl, hf, ha, ⟨r, hl, rfl, hst⟩, hm, hfull, he, of_decide_eq_true hn, hheld, hslot⟩
      · cases hg
    rw [show (s.accepted tag).regions = s.regions from rfl]
    cases s.regions[r].policy with
    | stall => exact ⟨rfl, fun g hg => ⟨rfl, rfl, asked g hg⟩⟩
    | reject => exact ⟨rfl, fun g hg => ⟨rfl, rfl, asked g hg⟩⟩

/-! ### The watch unit -/

theorem watch_matches_iff (w : Watch) (k : ReqKind) (a : Addr) :
    w.matches k a = true ↔ w.enabled = true ∧ w.low.toNat ≤ a.toNat ∧ a.toNat ≤ w.high.toNat ∧
      (w.kinds = .both ∨ (w.kinds = .read ∧ k = .read) ∨ (w.kinds = .write ∧ k = .write)) := by
  unfold Watch.matches
  cases w.kinds <;> cases k <;> simp [and_assoc]

/-- The first of an ascending list of all numbers that satisfies p is the lowest that does. -/
theorem find_lowest {n : Nat} {l : List (Fin n)} (sorted : l.Pairwise (· < ·)) (all : ∀ x, x ∈ l) (p : Fin n → Bool)
    (w : Fin n) : l.find? p = some w ↔ p w = true ∧ ∀ v, v < w → p v = false := by
  have lowest : ∀ u, l.find? p = some u → p u = true ∧ ∀ v, v < u → p v = false := by
    intro u hu
    obtain ⟨hp, as, bs, rfl, has⟩ := List.find?_eq_some_iff_append.1 hu
    refine ⟨hp, fun v hv => ?_⟩
    rcases List.mem_append.1 (all v) with h | h
    · simpa using has v h
    · rcases List.mem_cons.1 h with rfl | h
      · exact absurd hv (lt_irrefl _)
      · have later := (List.pairwise_cons.1 (List.pairwise_append.1 sorted).2.1).1 v h
        exact absurd hv (lt_asymm later)
  refine ⟨lowest w, fun ⟨hp, hlow⟩ => ?_⟩
  cases hu : l.find? p with
  | none => exact absurd hp (List.find?_eq_none.1 hu w (all w))
  | some u =>
    obtain ⟨hpu, hlu⟩ := lowest u hu
    rcases lt_trichotomy u w with h | rfl | h
    · exact absurd hpu (by simp [hlow u h])
    · rfl
    · exact absurd hp (by simp [hlu w h])

/-- The lowest-numbered watch that matches (R156). -/
theorem selectWatch_iff (s : State) (k : ReqKind) (a : Addr) (w : Fin 4) :
    s.selectWatch k a = some w ↔
      s.watches[w].matches k a = true ∧ ∀ v : Fin 4, v < w → s.watches[v].matches k a = false :=
  find_lowest (by decide) (by decide) (fun v => s.watches[v].matches k a) w

/-- Every watch disabled. -/
def allDisabled (ws : Vector Watch 4) : Vector Watch 4 := ws.map fun x => { x with enabled := false }

/-- With every watch disabled none is selected. -/
theorem selectWatch_disabled (s : State) (ws : Vector Watch 4) (k : ReqKind) (a : Addr) :
    (s.withWatches (allDisabled ws)).selectWatch k a = none := by
  unfold State.selectWatch
  rw [List.find?_eq_none]
  intro w _
  simp [State.withWatches, allDisabled, Watch.matches]

/-- The watches after a selected watch has judged a request (R157). -/
def State.watchesAfter (s : State) (w : Fin 4) : Vector Watch 4 :=
  s.watches.set w { s.watches[w] with
    counter := if s.watches[w].counter + 1 = s.watches[w].decimation then 0 else s.watches[w].counter + 1 }

theorem watchRequest_counts {s : State} {k : ReqKind} {a : Addr} {w : Fin 4} (h : s.selectWatch k a = some w)
    (hd : s.watches[w].counter + 1 ≠ s.watches[w].decimation) (tag : UTag) (z : Size) (p : Path) :
    s.watchRequest tag k a z p = s.withWatches (s.watchesAfter w) := by
  unfold State.watchRequest State.watchesAfter
  rw [h]
  dsimp only
  rw [if_neg hd, if_neg hd]
  rfl

theorem watchRequest_logs {s : State} {k : ReqKind} {a : Addr} {w : Fin 4} (h : s.selectWatch k a = some w)
    (hd : s.watches[w].counter + 1 = s.watches[w].decimation) (tag : UTag) (z : Size) (p : Path) :
    s.watchRequest tag k a z p =
      (s.withWatches (s.watchesAfter w)).logRecord w s.now (.access a tag k z p) := by
  unfold State.watchRequest State.watchesAfter
  rw [h]
  dsimp only
  rw [if_pos hd, if_pos hd]
  rfl

/-! ### The log -/

/-- What the log does with a record (R160 to R163). -/
theorem logRecord_off {u : State} {b : LogBody} (h : u.log.takes b = false) (i : Fin 4) (ts : Stamp) :
    u.logRecord i ts b = u := if_pos (by rw [h]; rfl)

theorem logRecord_enters {u : State} {b : LogBody} (h : u.log.takes b = true) (hn : u.log.records.length < 32)
    (i : Fin 4) (ts : Stamp) :
    u.logRecord i ts b = if u.log.records.length + 1 = u.log.watermark then
      State.raise { u with log := u.log.enter i ts b } .logWatermark else { u with log := u.log.enter i ts b } := by
  unfold State.logRecord
  rw [h]
  simp [hn, Log.enter]

theorem logRecord_full {u : State} {b : LogBody} (h : u.log.takes b = true) (hn : 32 ≤ u.log.records.length)
    (i : Fin 4) (ts : Stamp) :
    u.logRecord i ts b =
      (State.bump { u with log := { u.log with lost := satAdd u.log.lost 1 } } .logLostTotal 1).raise .logLoss := by
  unfold State.logRecord
  rw [h, if_neg (by simp), if_neg (by omega)]

/-! ### A watched request, and the same request unwatched -/

/-- What a route can change: the tag, the responses, the tracker, the forward queue, the pool, the stall slot and the
event unit. -/
theorem route_eq (s : State) (tag : UTag) (k : ReqKind) (a : Addr) (z : Size) (d : Lanes) :
    (s.route tag k a z d).state = { s with
      inFlight := (s.route tag k a z d).state.inFlight, responses := (s.route tag k a z d).state.responses
      tracker := (s.route tag k a z d).state.tracker, forwardQueue := (s.route tag k a z d).state.forwardQueue
      pool := (s.route tag k a z d).state.pool, stall := (s.route tag k a z d).state.stall
      events := (s.route tag k a z d).state.events } := by
  cases k with
  | read =>
    have h := (route_read_routed s tag a z d).state
    rw [h]
  | write =>
    unfold State.route
    split
    · rfl
    · dsimp only
      split
      · rfl
      · split
        · rfl
        · unfold State.routeWrite
          dsimp only
          split
          · rfl
          · split
            · rfl
            · rfl
            all_goals
              split
              · rename_i t h
                rcases offer_cases h with ⟨_, _, rfl⟩ | ⟨_, _, _, rfl⟩ <;> rfl
              · split <;> rfl

theorem exec_routed {s : State} (h : s.uReady = true) (tag : UTag) (k : ReqKind) (a : Addr) (z : Size) (d : Lanes)
    {q : Routed} (hq : ({ s with places := s.places + 1 } : State).route tag k a z d = q) :
    exec (.upstreamRequest tag k a z d) s = .next
      (match q.pressure with
        | none => q.state.watchRequest tag k a z q.path
        | some g => (q.state.watchRequest tag k a z q.path).pressureRequest g) := by
  subst hq
  exact if_pos h

theorem canSeal_watchRequest (s : State) (g : GroupId) (tag : UTag) (k : ReqKind) (a : Addr) (z : Size) (p : Path) :
    (s.watchRequest tag k a z p).canSeal g = s.canSeal g := by
  rw [watchRequest_eq]
  rfl

/-- A request whose PRESSURE request, if it makes one, seals nothing: its route and the watch unit (R137). -/
theorem exec_unsealed {s : State} (h : s.uReady = true) {tag : UTag} {k : ReqKind} {a : Addr} {z : Size} {d : Lanes}
    {q : Routed} (hq : ({ s with places := s.places + 1 } : State).route tag k a z d = q)
    (hno : ∀ g, q.pressure = some g → q.state.canSeal g = false) :
    exec (.upstreamRequest tag k a z d) s = .next (q.state.watchRequest tag k a z q.path) := by
  rw [exec_routed h tag k a z d hq]
  cases hp : q.pressure with
  | none => rfl
  | some g => exact congrArg _ (pressureRequest_idle ((canSeal_watchRequest ..).trans (hno g hp)))

/-! ### A seal under another log -/

/-- What a seal leaves, under another log and event unit of the state and of what is left (R84). -/
theorem SealLeaves.relog {s t : State} {g : GroupId} {c : SealCause} {ts : Stamp} (h : SealLeaves s t g c ts)
    (ws ws' : Vector Watch 4) {l l' : Log} {e e' : Events}
    (hc : (t.noted ws' l' e').counter (.seals g) = satAdd ((s.noted ws l e).counter (.seals g)) 1)
    (hl : l' = ((s.noted ws l e).logRecord g ts
      (.sealed s.groups[g].openGen (s.openCount g) c (s.fenceMembers g))).log) :
    SealLeaves (s.noted ws l e) (t.noted ws' l' e') g c ts where
  slot := by
    obtain ⟨sl, h1, h2⟩ := h.slot
    exact ⟨sl, h1, h2.gen, h2.entries, h2.fence, h2.written, h2.failed, h2.elapsed, h2.fenced, h2.draining, h2.ready⟩
  group := h.group
  others := h.others
  regions := h.regions
  forwardQueue := h.forwardQueue
  outstanding := h.outstanding
  tracker := h.tracker
  ready := h.ready
  nextIssue := h.nextIssue
  seals := hc
  log := hl
  hold := h.hold
  channel := h.channel
  lastGrant := h.lastGrant
  drainTags := h.drainTags

/-- The report of a seal does not depend on the watches. -/
theorem sealReport_noted (s : State) (ws ws' : Vector Watch 4) (l : Log) (e : Events) (g : GroupId) (c : SealCause)
    (ts : Stamp) (f : Nat) :
    (s.noted ws l e).sealReport g c ts f = s.noted ws ((s.noted ws' l e).sealReport g c ts f).log
      ((s.noted ws' l e).sealReport g c ts f).events :=
  logRecord_noted s ws l _ g ts _ (u := (s.noted ws' l e).bump (.seals g) 1) rfl rfl

/-- The report of a seal, at a counter that no lost record moves. -/
theorem counter_sealReport (s : State) (g : GroupId) (c : SealCause) (ts : Stamp) (f : Nat) {k : Counter}
    (h : k ≠ .logLostTotal) :
    (s.sealReport g c ts f).counter k = if k = .seals g then satAdd (s.counter (.seals g)) 1 else s.counter k := by
  unfold State.sealReport State.reportSeal
  rw [counter_logRecord_ne _ _ _ _ h, counter_bump]

/-- What a write's own disposal keeps of s where its PRESSURE request seals the group: all that the seal reads, and
the records' counter and flags. -/
structure Disposed (s y : State) (g : GroupId) : Prop where
  can : y.canSeal g = true
  leaves : SealLeaves s (y.pressureRequest g) g .pressure s.now
  entries : y.openCount g = s.openCount g
  openGen : y.groups[g].openGen = s.groups[g].openGen
  fence : y.fenceMembers g = s.fenceMembers g
  now : y.now = s.now
  log : y.log = s.log
  watches : y.watches = s.watches
  seals : y.counter (.seals g) = s.counter (.seals g)
  lost : y.counter .logLostTotal = s.counter .logLostTotal
  watermark : y.flagSet .logWatermark = s.flagSet .logWatermark
  loss : y.flagSet .logLoss = s.flagSet .logLoss

theorem disposed_refused {s : State} {a : Addr} {r : RegionId} {g : GroupId} (h : s.Asks a r g) (tag : UTag)
    (hst : s.stall = none) (hc : s.canSeal g = true) : Disposed s (s.refuseWrite tag) g := by
  have kept : ∀ k : Counter, k ≠ .refusedWrites → (s.refuseWrite tag).counter k = s.counter k := by
    intro k hk
    rw [State.refuseWrite, counter_raise, counter_bump, if_neg hk]
    rfl
  have raised : ∀ f : Flag, f ≠ .refused → (s.refuseWrite tag).flagSet f = s.flagSet f := by
    intro f hf
    rw [State.refuseWrite, flagSet_raise, decide_eq_false hf, Bool.or_false]
    rfl
  exact ⟨hc, (refused_pressure_leaves h tag hst hc).1, rfl, rfl, rfl, rfl, rfl, rfl, kept _ (by simp), kept _ (by simp),
    raised _ (by simp), raised _ (by simp)⟩

theorem disposed_stalled {s : State} {a : Addr} {r : RegionId} {g : GroupId} (h : s.Asks a r g) (tag : UTag) (z : Size)
    (d : Lanes) (hc : s.canSeal g = true) : Disposed s (s.enterStall tag a z d r .noEntry) g :=
  ⟨hc, (stalled_pressure_leaves h tag z d hc).2, rfl, rfl, rfl, rfl, rfl, rfl, rfl, rfl, rfl, rfl⟩

/-- The PRESSURE request of a disposed write under another log: what it leaves (R81, R84). -/
theorem Disposed.leaves_noted {s y : State} {g : GroupId} (h : Disposed s y g) (hn : 0 < s.openCount g)
    (ws ws' : Vector Watch 4) {l : Log} {e e' : Events}
    (hc : (y.noted ws l e).counter (.seals g) = (s.noted ws' l e').counter (.seals g)) :
    SealLeaves (s.noted ws' l e') ((y.noted ws l e).pressureRequest g) g .pressure s.now := by
  rw [pressureRequest_noted y ws l e (by rw [h.entries]; exact hn) h.can, h.now, h.fence]
  refine h.leaves.relog ws' ws ?_ ?_
  · show ((y.noted ws l e).sealReport g .pressure s.now (s.fenceMembers g)).counter (.seals g) = _
    rw [counter_sealReport _ _ _ _ _ (by simp), if_pos rfl, hc]
  · unfold State.sealReport State.reportSeal
    rw [show (y.noted ws l e).openCount g = y.openCount g from rfl, show (y.noted ws l e).groups = y.groups from rfl,
      h.entries, h.openGen]
    exact logRecord_log_congr (s := s.noted ws' l e') (t := (y.noted ws l e).bump (.seals g) 1) rfl _ _ _

end Sys2Proof.Machine

namespace Sys2Proof.Machine

/-! ### The two clauses of a watched request -/

/-- A watched request that seals nothing: the same request with every watch disabled, and the watch unit (R156 to
R158). -/
theorem exec_watched {s : State} {tag : UTag} {k : ReqKind} {a : Addr} {z : Size} {d : Lanes} {w : Fin 4} {p : Path}
    (hr : s.uReady = true) (hw : s.selectWatch k a = some w) (hp : PathTaken s tag a z k p)
    (hno : ∀ g, ¬PressureSeals s tag a z k g) :
    ∃ t : State,
      exec (.upstreamRequest tag k a z d) (s.withWatches (allDisabled s.watches)) =
        .next t ∧
      (s.watches[w].counter + 1 ≠ s.watches[w].decimation →
        exec (.upstreamRequest tag k a z d) s = .next (t.withWatches (s.watchesAfter w))) ∧
      (s.watches[w].counter + 1 = s.watches[w].decimation →
        exec (.upstreamRequest tag k a z d) s = .next
          ((t.withWatches (s.watchesAfter w)).logRecord w s.now (.access a tag k z p))) := by
  obtain ⟨hpath, hpress⟩ := hp.routes d
  have keep := route_eq { s with places := s.places + 1 } tag k a z d
  have blind := route_withWatches { s with places := s.places + 1 } (allDisabled s.watches)
    tag k a z d
  generalize hq : ({ s with places := s.places + 1 } : State).route tag k a z d = q at hpath hpress keep blind
  have idle : ∀ g, q.pressure = some g → q.state.canSeal g = false := by
    intro g hg
    obtain ⟨hgroups, hhold, seals⟩ := hpress g hg
    refine Bool.eq_false_iff.2 fun hc => ?_
    obtain ⟨h1, -, h3⟩ := (canSeal_iff _ _).1 hc
    rw [hhold] at h1
    simp only [hgroups] at h3
    exact hno g (seals h1 h3)
  have watches : q.state.watches = s.watches := by rw [keep]
  have now : q.state.now = s.now := by rw [keep]; rfl
  have selected : q.state.selectWatch k a = some w := (selectWatch_congr watches k a).trans hw
  have after : q.state.watchesAfter w = s.watchesAfter w := by
    unfold State.watchesAfter
    rw [watches]
  have run := exec_unsealed hr hq idle
  refine ⟨q.state.withWatches (allDisabled s.watches), ?_, fun hd => ?_, fun hd => ?_⟩
  · refine (exec_unsealed (s := s.withWatches (allDisabled s.watches)) hr blind idle).trans (congrArg _ ?_)
    exact watchRequest_none (selectWatch_disabled q.state s.watches k a) tag z q.path
  · rw [run, watchRequest_counts selected (by rw [watches]; exact hd), after]
    rfl
  · rw [run, watchRequest_logs selected (by rw [watches]; exact hd), after, hpath, now]
    rfl

/-- A write whose PRESSURE request seals: its own disposal and then the request (R29, R137). -/
theorem exec_seals {s : State} {tag : UTag} {a : Addr} {z : Size} {g : GroupId} (hst : s.stall = none)
    (hq : s.quiescing = false) (h : PressureSeals s tag a z .write g) (d : Lanes) :
    ∃ (y : State) (p : Path),
      ({ s with places := s.places + 1 } : State).route tag .write a z d = ⟨y, p, some g⟩ ∧ Disposed s y g := by
  obtain ⟨-, hf, ha, ⟨r, hl, hg, hstate⟩, hm, hfull, he, hn, hh, hs⟩ := h
  have asks : (s.accepted tag).Asks a r g := ⟨hl, hg, hstate, .inl hh, hm, hfull, he, hn⟩
  have can : (s.accepted tag).canSeal g = true := (canSeal_iff _ g).2 ⟨hh, hq, hs⟩
  have routed := (route_write hf ((aligned_iff a z).2 ha) hl).trans (routeWrite_asks asks tag z d)
  have accepted : ∀ y, Disposed (s.accepted tag) y g → Disposed s y g := fun y D =>
    ⟨D.can, D.leaves.congr_left rfl rfl rfl rfl rfl rfl rfl rfl rfl rfl rfl rfl rfl rfl, D.entries, D.openGen, D.fence,
      D.now, D.log, D.watches, D.seals, D.lost, D.watermark, D.loss⟩
  cases hpol : (s.accepted tag).regions[r].policy with
  | stall =>
    rw [hpol] at routed
    exact ⟨_, _, routed, accepted _ (disposed_stalled asks tag z d can)⟩
  | reject =>
    rw [hpol] at routed
    exact ⟨_, _, routed, accepted _ (disposed_refused asks tag hst can)⟩

/-- What the ACCESS and the SEAL record of a watched write leave, beside the same write unwatched (R158). -/
structure TwoRecords (s t v x : State) : Prop where
  enables : t.events.enables = v.events.enables
  counters : ∀ c : Counter, c ≠ .logLostTotal → t.counter c = v.counter c
  flags : ∀ f : Flag, f ≠ .logWatermark → f ≠ .logLoss → t.flagSet f = v.flagSet f
  log : t.log = x.log
  lost : t.counter .logLostTotal = x.counter .logLostTotal
  watermark : t.flagSet .logWatermark = x.flagSet .logWatermark
  loss : t.flagSet .logLoss = x.flagSet .logLoss

theorem flagSet_sealReport (s : State) (g : GroupId) (c : SealCause) (ts : Stamp) (f : Nat) {k : Flag}
    (hw : k ≠ .logWatermark) (hl : k ≠ .logLoss) : (s.sealReport g c ts f).flagSet k = s.flagSet k :=
  (flagSet_logRecord_ne _ _ _ _ hw hl).trans rfl

/-- The seal of a disposed write after a record of the watch unit, beside the seal without it. -/
theorem Disposed.twoRecords {s y : State} {g : GroupId} (h : Disposed s y g) (hn : 0 < s.openCount g)
    (ws ws' : Vector Watch 4) (w : Fin 4) (ts : Stamp) (b : LogBody) :
    TwoRecords s
      ((y.noted ws (y.logRecord w ts b).log (y.logRecord w ts b).events).pressureRequest g)
      ((y.noted ws' y.log y.events).pressureRequest g)
      ((s.logRecord w ts b).logRecord g s.now
        (.sealed s.groups[g].openGen (s.openCount g) .pressure (s.fenceMembers g))) := by
  have entries : 0 < y.openCount g := by rw [h.entries]; exact hn
  rw [pressureRequest_noted y ws _ _ entries h.can, pressureRequest_noted y ws' _ _ entries h.can, h.now, h.fence]
  have logged : (y.logRecord w ts b).log = (s.logRecord w ts b).log := logRecord_log_congr h.log w ts b
  have body : (y.noted ws (y.logRecord w ts b).log (y.logRecord w ts b).events).sealReport g .pressure s.now
      (s.fenceMembers g) = ((y.noted ws (y.logRecord w ts b).log (y.logRecord w ts b).events).bump (.seals g) 1).logRecord
        g s.now (.sealed s.groups[g].openGen (s.openCount g) .pressure (s.fenceMembers g)) := by
    unfold State.sealReport State.reportSeal
    rw [show (State.noted y ws _ _).openCount g = y.openCount g from rfl,
      show (State.noted y ws _ _).groups = y.groups from rfl, h.entries, h.openGen]
  refine ⟨?_, fun c hc => ?_, fun f hw hl => ?_, ?_, ?_, ?_, ?_⟩
  · exact (quiet_reportSeal _ _ _ _).enables.trans ((quiet_logRecord y w ts b).enables.trans
      (quiet_reportSeal (y.noted ws' y.log y.events) g s.now _).enables.symm)
  · refine (counter_sealReport _ g .pressure s.now _ hc).trans (Eq.trans ?_ (counter_sealReport _ g _ _ _ hc).symm)
    have kept : ∀ k : Counter, k ≠ .logLostTotal →
        (y.noted ws (y.logRecord w ts b).log (y.logRecord w ts b).events).counter k = y.counter k :=
      fun k hk => counter_logRecord_ne y w ts b hk
    rw [kept c hc, kept _ (by simp)]
    rfl
  · refine (flagSet_sealReport _ g .pressure s.now _ hw hl).trans (Eq.trans ?_
      (flagSet_sealReport _ g _ _ _ hw hl).symm)
    exact flagSet_logRecord_ne y w ts b hw hl
  · refine (congrArg State.log body).trans ?_
    exact logRecord_log_congr (t := (y.noted ws _ _).bump (.seals g) 1) logged _ _ _
  · refine (congrArg (State.counter · .logLostTotal) body).trans ?_
    refine counter_logRecord_congr (t := (y.noted ws _ _).bump (.seals g) 1) logged ?_ _ _ _
    rw [counter_bump, if_neg (by simp)]
    exact counter_logRecord_congr h.log h.lost w ts b
  · refine (congrArg (State.flagSet · .logWatermark) body).trans ?_
    exact flagSet_logRecord_congr (t := (y.noted ws _ _).bump (.seals g) 1) logged
      (flagSet_logRecord_congr h.log h.watermark w ts b) _ _ _
  · refine (congrArg (State.flagSet · .logLoss) body).trans ?_
    exact flagSet_logRecord_congr (t := (y.noted ws _ _).bump (.seals g) 1) logged
      (flagSet_logRecord_congr h.log h.loss w ts b) _ _ _

end Sys2Proof.Machine

namespace Sys2Proof.Proofs

open Sys2Proof.Machine

/-- Settles O12: the watch's selection, the request beside the unwatched one, sealing or not, and the log's own rules. -/
theorem watchesLogTakenRequests : Obligations.WatchesLogTakenRequests := by
  refine ⟨fun s tag kind a z d w => ⟨?selected, fun u path watches ts hst hq hp hr hw hpath hu hws hts => ?taken⟩,
    fun u i ts b k hk => ?logged⟩
  case selected => rw [selectWatch_iff, watch_matches_iff]
  case taken =>
    subst hu hts
    have ready := uReady_of hst hq hp hr
    have after : watches = s.watchesAfter w := hws
    subst after
    refine ⟨fun hno => exec_watched ready hw hpath hno, fun g hseals => ?_⟩
    obtain rfl := hseals.write
    obtain ⟨y, p, routed, D⟩ := exec_seals hst hq hseals d
    have reported : p = path := by
      have := (hpath.routes d).path
      rwa [routed] at this
    subst reported
    have blind := route_withWatches { s with places := s.places + 1 }
      (allDisabled s.watches) tag .write a z d
    rw [routed] at blind
    have selected : y.selectWatch .write a = some w := (selectWatch_congr D.watches _ _).trans hw
    have watched : y.watchesAfter w = s.watchesAfter w := by
      unfold State.watchesAfter
      rw [D.watches]
    have entries : 0 < y.openCount g := by rw [D.entries]; exact hseals.entries
    refine ⟨(y.watchRequest tag .write a z p).pressureRequest g,
      (y.noted (allDisabled s.watches) y.log y.events).pressureRequest g,
      exec_routed ready tag .write a z d routed, ?_, fun hd => ?_, fun hd => ?_⟩
    · refine (exec_routed (s := s.withWatches (allDisabled s.watches)) ready tag .write a z d blind).trans (congrArg _ ?_)
      exact congrArg (State.pressureRequest · g)
        (watchRequest_none (selectWatch_disabled y s.watches .write a) tag z p)
    · rw [watchRequest_counts selected (by rw [D.watches]; exact hd), watched,
        show y.withWatches (s.watchesAfter w) = y.noted (s.watchesAfter w) y.log y.events from rfl]
      refine ⟨?_, ?_⟩
      · rw [pressureRequest_noted y _ _ _ entries D.can, pressureRequest_noted y _ _ _ entries D.can,
          sealReport_noted y (s.watchesAfter w) (allDisabled s.watches)]
        rfl
      · have L := D.leaves_noted hseals.entries (s.watchesAfter w) s.watches (l := y.log) (e := y.events)
          (e' := s.events) D.seals
        rw [D.log] at L ⊢
        exact L
    · rw [watchRequest_logs selected (by rw [D.watches]; exact hd), watched, D.now,
        show y.withWatches (s.watchesAfter w) = y.noted (s.watchesAfter w) y.log y.events from rfl,
        logRecord_noted y (s.watchesAfter w) y.log y.events w s.now _ (u := y) rfl rfl]
      obtain ⟨enables, counters, flags, log, lost, watermark, loss⟩ := D.twoRecords hseals.entries (s.watchesAfter w)
        (allDisabled s.watches) w s.now (.access a tag .write z p)
      refine ⟨?_, ?_, enables, counters, flags, ?_⟩
      · rw [pressureRequest_noted y _ _ _ entries D.can, pressureRequest_noted y _ _ _ entries D.can]
        rfl
      · have L := D.leaves_noted hseals.entries (s.watchesAfter w) s.watches
          (l := (y.logRecord w s.now (.access a tag .write z p)).log)
          (e := (y.logRecord w s.now (.access a tag .write z p)).events)
          (e' := (s.logRecord w s.now (.access a tag .write z p)).events)
          (counter_logRecord_congr D.log D.seals _ _ _)
        rw [logRecord_log_congr D.log] at L ⊢
        rw [logRecord_eq s]
        exact L
      · rintro x rfl
        exact ⟨log, lost, watermark, loss⟩
  case logged =>
    have taken : u.log.takes b = u.log.kinds.getLsbD k := by
      unfold Log.takes
      rw [hk]
      cases b <;> rfl
    refine ⟨fun h => logRecord_off (taken.trans h) i ts, fun h => ⟨fun l hlen hl => ?_, fun hlen => ?_⟩⟩
    · subst hl
      refine ⟨fun hn => ?_, fun hn => ?_⟩
      · rw [logRecord_enters (taken.trans h) hlen, if_neg hn]
        rfl
      · rw [logRecord_enters (taken.trans h) hlen, if_pos hn]
        rfl
    · exact logRecord_full (taken.trans h) hlen i ts

end Sys2Proof.Proofs

/-! The responses, the arbiter and memory's answers (O14 to O20). -/

namespace Sys2Proof.Machine

/-! ### The arbiter -/

/-- The entry that the drain engine looks for, in the words of R92. -/
theorem isOf_arrival (e : Entry) (g : GroupId) (o : Role) (n : Nat) :
    (e.isOf g o && decide (e.arrival = n)) = decide (e.group = g ∧ e.role = o ∧ e.arrival = n) := by
  simp [Entry.isOf, Bool.and_assoc]

/-- The lowest-numbered free drain tag (R91). -/
theorem freeDrainTag_iff (s : State) (d : Fin 4) :
    s.freeDrainTag = some d ↔ s.drainTags[d] = none ∧ ∀ b : Fin 4, b < d → s.drainTags[b] ≠ none := by
  refine (find_lowest (by decide) (by decide) (fun d : Fin 4 => s.drainTags[d].isNone) d).trans ?_
  simp only [Option.isNone_iff_eq_none, Option.isNone_eq_false_iff, Option.isSome_iff_ne_none]

/-- Issuing an entry marks the one of its group, role and number (R92). -/
theorem grantDrain_eq (s : State) (g : GroupId) (d : Fin 4) (e : Entry) :
    s.grantDrain g d e = { s with
      pool := s.pool.map fun x =>
        if x.group = g ∧ x.role = .sealed ∧ x.arrival = s.nextIssue then { x with issued := true } else x
      channel := some { tag := drainTag d, kind := .write, addr := e.addr, mask := e.mask,
                        data := maskLanes e.mask e.data }
      drainTags := s.drainTags.set d (some { group := g, arrival := s.nextIssue })
      nextIssue := s.nextIssue + 1
      lastGrant := .drain } := by
  unfold State.grantDrain
  simp only [isOf_arrival, decide_eq_true_eq]

/-! ### Memory's answers -/

theorem exec_response_forward {s : State} (hr : s.inReset = false) (t : UTag) (st : MemStatus) (d : Lanes) :
    exec (.downstreamResponse (forwardTag t) st d) s = .next (s.answerForwarded t st d) := by
  change execDownstreamResponse (forwardTag t) st d s = _
  unfold execDownstreamResponse
  rw [if_neg (by rw [hr]; exact Bool.false_ne_true), dif_pos (show (forwardTag t).val < 16 from t.isLt)]
  rfl

theorem exec_response_drain {s : State} (hr : s.inReset = false) (b : Fin 4) (st : MemStatus) (d : Lanes) :
    exec (.downstreamResponse (drainTag b) st d) s = .next (s.answerDrainTag b st) := by
  have tag : (⟨(drainTag b).val - 16, by have := b.isLt; simp only [drainTag]; omega⟩ : Fin 4) = b :=
    Fin.ext (Nat.add_sub_cancel_left 16 b.val)
  change execDownstreamResponse (drainTag b) st d s = _
  unfold execDownstreamResponse
  rw [if_neg (by rw [hr]; exact Bool.false_ne_true),
    dif_neg (show ¬(drainTag b).val < 16 from Nat.not_lt.2 (Nat.le_add_right 16 b.val))]
  exact congrArg (fun x => Host.Outcome.next (s.answerDrainTag x st)) tag

theorem maskLanes_mergeLanes (m n : LaneMask) (new old : Lanes) :
    maskLanes m (mergeLanes n new old) = Vector.ofFn fun k =>
      if hasLane m k then (if hasLane n k then new[k] else old[k]) else 0 := by
  unfold maskLanes
  simp only [mergeLanes_get]

theorem set_of_get {α : Type} {n : Nat} {v : Vector α n} {i : Fin n} {x : α} (h : v[i] = x) : v.set i x = v := by
  subst h
  simp

/-- The answer to a request, its tracker record and its mark gone (R109, R110, R138). -/
def State.answered (s : State) (t : UTag) (a : Response) : State :=
  { s with tracker := s.tracker.set t none, responses := s.responses ++ [a] }

/-- The response to the request of a tag, by its record and memory's status (R109, R110, R138). -/
structure AnswerOf (s : State) (t : UTag) (o : OutReq) (st : MemStatus) (d : Lanes) (m : Option GroupId)
    (a : Response) : Prop where
  answer : (s.tracker[t] = none ∧ o.mark = m ∧
      a = { tag := t, status := (match st with | .ok => .ok | .err => .errMem), holdsTag := true
            data := match st, o.kind with
              | _, .write => none
              | .ok, .read => some (maskLanes (laneMask o.addr o.size) d)
              | .err, .read => some Lanes.zero }) ∨
    (∃ q : ReadRecord, s.tracker[t] = some q ∧ q.mark = m ∧
      a = { tag := t, status := (match st with | .ok => .ok | .err => .errMem), holdsTag := true
            data := match st with
              | .ok => some (Vector.ofFn fun k => if hasLane q.lanes k then
                  (if hasLane q.snapMask k then q.snapData[k] else d[k]) else 0)
              | .err => some Lanes.zero })

theorem lowerMark_tracker (s : State) (m : Option GroupId) : (s.lowerMark m).tracker = s.tracker := by
  cases m with
  | none => rfl
  | some g =>
    show (s.lowerFence g).tracker = _
    unfold State.lowerFence
    split
    · rfl
    · dsimp only
      split
      · rw [becomeReady_eq]
        rfl
      · rfl

/-- An answered request: its record gone, the fence of its mark lowered, and its answer in the queue (R109, R142). -/
theorem answerForwarded_eq {s : State} {t : UTag} {o : OutReq} {st : MemStatus} {d : Lanes} {m : Option GroupId}
    {a : Response} (ho : s.outstanding[t] = some o) (ha : AnswerOf s t o st d m a) :
    s.answerForwarded t st d =
      (State.lowerMark { s with outstanding := s.outstanding.set t none } m).answered t a := by
  rcases ha.answer with ⟨ht, rfl, rfl⟩ | ⟨q, ht, rfl, rfl⟩
  · have passed : s.answerForwarded t st d = s.answerPass t o st d := by
      unfold State.answerForwarded
      rw [ho, ht]
    have still : (State.lowerMark { s with outstanding := s.outstanding.set t none } o.mark).tracker.set t none =
        (State.lowerMark { s with outstanding := s.outstanding.set t none } o.mark).tracker := by
      rw [lowerMark_tracker]
      exact set_of_get ht
    rw [passed]
    unfold State.answered State.answerPass
    rw [still]
    cases st <;> cases o.kind <;> rfl
  · have read : s.answerForwarded t st d = s.answerRead t q st d := by
      unfold State.answerForwarded
      rw [ho, ht]
    rw [read]
    unfold State.answered State.answerRead
    cases st with
    | ok =>
      dsimp only
      rw [maskLanes_mergeLanes]
      rfl
    | err => rfl

/-! ### The fence count -/

theorem modSlot_of_slot {s : State} {g : GroupId} {sl : SealedSlot} (h : s.groups[g].slot = some sl)
    (f : SealedSlot → SealedSlot) :
    s.modSlot g f = { s with groups := s.groups.set g { s.groups[g] with slot := some (f sl) } } := by
  simp only [State.modSlot, State.modGroup, h, Option.map_some]

theorem modSlot_modSlot (s : State) (g : GroupId) (f k : SealedSlot → SealedSlot) :
    (s.modSlot g f).modSlot g k = s.modSlot g fun x => k (f x) := by
  simp [State.modSlot, State.modGroup, Function.comp_def]

theorem modSlot_get_self (s : State) (g : GroupId) (f : SealedSlot → SealedSlot) :
    (s.modSlot g f).groups[g] = { s.groups[g] with slot := s.groups[g].slot.map f } := by
  simp [State.modSlot, State.modGroup]

theorem modSlot_get_ne (s : State) {g h : GroupId} (k : h ≠ g) (f : SealedSlot → SealedSlot) :
    (s.modSlot g f).groups[h] = s.groups[h] := by
  have e : (g : Nat) ≠ h := fun e => k (Fin.ext e).symm
  simp [State.modSlot, State.modGroup, Vector.getElem_set_ne, e]

/-- A READY head drains (R90). -/
theorem startDrain_of_ready {s : State} {g : GroupId} {l : List GroupId} (hr : s.ready = g :: l)
    (hq : s.quiescing = false) (hp : s.phase g = some .ready) :
    s.startDrain = { s.modSlot g fun sl => { sl with phase := .draining } with nextIssue := 0 } := by
  unfold State.startDrain
  rw [hr]
  exact if_pos (by rw [hq, hp]; rfl)

/-- While quiescing no generation begins to drain (R98). -/
theorem startDrain_of_quiescing {s : State} (hq : s.quiescing = true) : s.startDrain = s := by
  unfold State.startDrain
  split
  · rfl
  · exact if_neg (by rw [hq]; exact Bool.false_ne_true)

/-- The last but not the only member of a fence set is answered (R87). -/
theorem lowerFence_waits {s : State} {g : GroupId} {sl : SealedSlot} (h : s.groups[g].slot = some sl)
    (hf : 2 ≤ sl.fence) : s.lowerFence g = s.modSlot g fun sl => { sl with fence := sl.fence - 1 } := by
  unfold State.lowerFence
  rw [h]
  exact if_neg (by omega)

/-- The only member of a fence set is answered: the slot becomes READY (R87, R88). -/
theorem lowerFence_ready {s : State} {g : GroupId} {sl : SealedSlot} (h : s.groups[g].slot = some sl)
    (hp : sl.phase = .fenced) (hf : sl.fence = 1) :
    s.lowerFence g = State.startDrain
      { s.modSlot g fun sl => { sl with fence := sl.fence - 1, phase := .ready } with ready := s.ready ++ [g] } := by
  unfold State.lowerFence
  rw [h]
  dsimp only
  rw [if_pos ⟨hp, by omega⟩]
  unfold State.becomeReady
  dsimp only
  rw [modSlot_modSlot]
  rfl

/-- Alone in the ready queue the slot is at once DRAINING (R90). -/
theorem lowerFence_drains {s : State} {g : GroupId} {sl : SealedSlot} (h : s.groups[g].slot = some sl)
    (hp : sl.phase = .fenced) (hf : sl.fence = 1) (hr : s.ready = []) (hq : s.quiescing = false) :
    s.lowerFence g = { s.modSlot g fun sl => { sl with fence := sl.fence - 1, phase := .draining } with
      ready := [g], nextIssue := 0 } := by
  rw [lowerFence_ready h hp hf, hr]
  have ready : (s.modSlot g fun sl => { sl with fence := sl.fence - 1, phase := .ready }).phase g = some .ready := by
    unfold State.phase
    rw [modSlot_get_self, h]
    rfl
  exact (startDrain_of_ready (s := { s.modSlot g fun sl => { sl with fence := sl.fence - 1, phase := .ready } with
      ready := [] ++ [g] }) (l := []) rfl hq ready).trans
    (congrArg (fun u : State => { u with ready := [g], nextIssue := 0 }) (modSlot_modSlot s g _ _))

/-- Behind another generation, or while quiescing, the slot stays READY (R89, R90, R98). -/
theorem lowerFence_queues {s : State} {g : GroupId} {sl : SealedSlot} (h : s.groups[g].slot = some sl)
    (hp : sl.phase = .fenced) (hf : sl.fence = 1)
    (hb : s.quiescing = true ∨
      ∃ k x, s.ready.head? = some k ∧ k ≠ g ∧ s.groups[k].slot = some x ∧ x.phase = .draining) :
    s.lowerFence g =
      { s.modSlot g fun sl => { sl with fence := sl.fence - 1, phase := .ready } with ready := s.ready ++ [g] } := by
  rw [lowerFence_ready h hp hf]
  rcases hb with hq | ⟨k, x, hk, hne, hx, hph⟩
  · exact startDrain_of_quiescing hq
  · apply startDrain_idle
    intro j hj
    have first : j = k := by
      obtain ⟨l, hl⟩ : ∃ l, s.ready = k :: l := List.head?_eq_some_iff.1 hk
      change (s.ready ++ [g]).head? = some j at hj
      rw [hl] at hj
      exact (Option.some.inj hj).symm
    subst first
    show (s.modSlot g _).groups[j].slot.map _ ≠ _
    rw [modSlot_get_ne s hne, hx, Option.map_some, hph]
    simp

/-! ### The answer to a drain write -/

theorem sealedAt_eq (s : State) (b : DrainBinding) :
    s.sealedAt b = s.pool.find? fun x => decide (x.group = b.group ∧ x.role = .sealed ∧ x.arrival = b.arrival) := by
  unfold State.sealedAt
  simp only [isOf_arrival]

theorem freeSealed_eq (s : State) (b : DrainBinding) :
    s.freeSealed b = { s with
      pool := s.pool.filter fun x =>
        !decide (x.group = b.group ∧ x.role = .sealed ∧ x.arrival = b.arrival) } := by
  unfold State.freeSealed
  simp only [isOf_arrival]

/-- Freeing an entry and handing a record to the log do not meet. -/
theorem freeSealed_logRecord (s : State) (b : DrainBinding) (i : Fin 4) (ts : Stamp) (body : LogBody) :
    (s.logRecord i ts body).freeSealed b = (s.freeSealed b).logRecord i ts body := by
  unfold State.logRecord
  simp only [show (s.freeSealed b).log = s.log from rfl]
  split
  · rfl
  · split
    · split <;> rfl
    · rfl

/-- The slot after one more drain write answered, OK or ERR (R94, R95). -/
def SealedSlot.answered (sl : SealedSlot) : MemStatus → SealedSlot
  | .ok => { sl with written := sl.written + 1 }
  | .err => { sl with failed := sl.failed + 1 }

/-- The state with a drain tag free and the answer counted in the slot (R94, R95). -/
def State.drainAnswered (s : State) (b : Fin 4) (g : GroupId) (sl : SealedSlot) : State :=
  { s with drainTags := s.drainTags.set b none, groups := s.groups.set g { s.groups[g] with slot := some sl } }

theorem drainCounted_ok {s : State} {n : DrainBinding} {sl : SealedSlot} (b : Fin 4)
    (h : s.groups[n.group].slot = some sl) :
    s.drainCounted b n .ok = s.drainAnswered b n.group (sl.answered .ok) :=
  modSlot_of_slot (s := { s with drainTags := s.drainTags.set b none }) h _

/-- An answer ERR is counted, flagged and recorded, with the address of the entry (R95). -/
theorem drainCounted_err {s : State} {n : DrainBinding} {sl : SealedSlot} {e : Entry} (b : Fin 4)
    (h : s.groups[n.group].slot = some sl) (he : s.sealedAt n = some e) :
    s.drainCounted b n .err = (((s.drainAnswered b n.group (sl.answered .err)).bump (.drainFaults n.group) 1).raise
      .drainFault).logRecord n.group s.now (.drainFault e.addr sl.gen) := by
  have slot : State.modSlot { s with drainTags := s.drainTags.set b none } n.group
      (fun sl => { sl with failed := sl.failed + 1 }) = s.drainAnswered b n.group (sl.answered .err) :=
    modSlot_of_slot (s := { s with drainTags := s.drainTags.set b none }) h _
  have gen : (s.drainAnswered b n.group (sl.answered .err)).groups[n.group].slot = some (sl.answered .err) := by
    simp [State.drainAnswered]
  unfold State.drainCounted
  dsimp only
  rw [slot, show State.sealedAt { s with drainTags := s.drainTags.set b none } n = some e from he]
  unfold State.drainFaulted
  dsimp only
  rw [gen]
  rfl

/-- With writes of its generation unanswered, or in a quiesce, an answer completes nothing (R96, R98). -/
theorem drainFreed_of_unfinished {s : State} {n : DrainBinding} {sl : SealedSlot} (h : s.groups[n.group].slot = some sl)
    (hn : sl.written + sl.failed ≠ sl.entries ∨ s.quiescing = true) : s.drainFreed n = (s.freeSealed n).retry := by
  have undrained : (s.freeSealed n).retry.drained n.group = false := by
    unfold State.drained
    rw [(quiet_retry (s.freeSealed n)).quiescing, show (s.freeSealed n).quiescing = s.quiescing from rfl]
    rcases hn with hn | hq
    · obtain ⟨f, hf, kept⟩ := retry_slot (s := s.freeSealed n) (g := n.group) h
      obtain ⟨-, entries, written, failed, -⟩ := kept sl
      rw [hf, show (s.freeSealed n).groups[n.group].slot = some sl from h]
      simp [entries, written, failed, hn]
    · rw [hq]
      rfl
  unfold State.drainFreed
  dsimp only
  rw [undrained]
  rfl

theorem answerDrainTag_eq {s : State} {b : Fin 4} {n : DrainBinding} (h : s.drainTags[b] = some n) (st : MemStatus) :
    s.answerDrainTag b st = (s.drainCounted b n st).drainFreed n := by
  unfold State.answerDrainTag
  rw [h]
  exact answerDrain_eq s b n st

end Sys2Proof.Machine

namespace Sys2Proof.Proofs

open Sys2Proof.Machine

/-- Settles O14. -/
theorem responsesDeliveredInOrder : Obligations.ResponsesDeliveredInOrder := by
  intro s hr
  have awake : exec .responseDelivered s = _ := if_neg (by rw [hr]; exact Bool.false_ne_true)
  refine ⟨fun h => ?_, fun r rest h => ?_⟩
  · rw [awake, h]
  · rw [awake, h]

/-- Settles O15: the arbiter's cases, by what is ready and who was granted last. -/
theorem arbiterGrantsInTurn : Obligations.ArbiterGrantsInTurn := by
  intro s hr
  have asleep : ∀ q, s.channel = some q → exec .arbiterGrant s = .next s := fun q h => if_pos (by simp [h])
  refine ⟨if_neg (by rw [hr]; exact Bool.false_ne_true), asleep, fun hc => ?_⟩
  have awake : exec .arbiterGrant s = _ := if_neg (by rw [hr, hc]; exact Bool.false_ne_true)
  rw [awake]
  refine ⟨fun hf hd => by rw [hf, hd], fun r rest hf hd => ?_, fun g d e hd hf => ?_⟩
  · rw [hf]
    rcases hw : s.drainWrite with _ | ⟨g, d, e⟩
    · rfl
    · exact if_pos (hd.resolve_left fun k => by rw [hw] at k; cases k)
  · rw [hd, ← grantDrain_eq]
    rcases hq : s.forwardQueue with _ | ⟨r, rest⟩
    · rfl
    · exact if_neg (by rw [hf.resolve_left fun k => by rw [hq] at k; cases k]; simp)

/-- Settles O16: the drain engine's tests, one by one. -/
theorem drainWritePresented : Obligations.DrainWritePresented := by
  intro s g d e
  have free := freeDrainTag_iff s d
  have entry : (s.pool.find? fun x => decide (x.group = g ∧ x.role = .sealed ∧ x.arrival = s.nextIssue)) =
      s.pool.find? fun x => x.isOf g .sealed && decide (x.arrival = s.nextIssue) := by
    simp only [isOf_arrival]
  rw [entry]
  unfold State.drainWrite
  constructor
  · intro h
    split at h
    · cases h
    · rename_i hq
      split at h
      · cases h
      · rename_i k l hr
        split at h
        · cases h
        · rename_i sl hs
          split at h
          · rename_i hp
            split at h
            · rename_i b x hb hx
              cases h
              obtain ⟨htag, hlow⟩ := free.1 hb
              exact ⟨by simpa using hq, by rw [hr]; rfl, ⟨sl, hs, hp⟩, htag, hlow, hx⟩
            · cases h
          · cases h
  · rintro ⟨hq, hr, ⟨sl, hs, hp⟩, htag, hlow, he⟩
    obtain ⟨l, hl⟩ := List.head?_eq_some_iff.1 hr
    rw [hl, hq]
    simp only [Bool.false_eq_true, if_false, hs, hp, and_self, if_true, free.2 ⟨htag, hlow⟩, he]

/-- Settles O17. -/
theorem strayResponsesCounted : Obligations.StrayResponsesCounted := by
  intro s st d hr
  refine ⟨fun t h => ?_, fun b h => ?_⟩
  · rw [exec_response_forward hr]
    unfold State.answerForwarded
    rw [h]
    rfl
  · rw [exec_response_drain hr]
    unfold State.answerDrainTag
    rw [h]
    rfl

/-- Settles O18: an unmarked request lowers no fence. -/
theorem forwardedRequestsAnswered : Obligations.ForwardedRequestsAnswered := by
  intro s t o d hr ho
  refine ⟨fun q hq hm => ⟨?_, ?_⟩, fun ht hm => ⟨?_, ?_⟩⟩
  · rw [exec_response_forward hr, answerForwarded_eq (st := .ok) ho ⟨.inr ⟨q, hq, hm, rfl⟩⟩]
    rfl
  · rw [exec_response_forward hr, answerForwarded_eq (st := .err) ho ⟨.inr ⟨q, hq, hm, rfl⟩⟩]
    rfl
  · have still := set_of_get ht
    rw [exec_response_forward hr, answerForwarded_eq (st := .ok) ho ⟨.inl ⟨ht, hm, rfl⟩⟩]
    unfold State.answered
    rw [lowerMark_tracker, still]
    cases o.kind <;> rfl
  · have still := set_of_get ht
    rw [exec_response_forward hr, answerForwarded_eq (st := .err) ho ⟨.inl ⟨ht, hm, rfl⟩⟩]
    unfold State.answered
    rw [lowerMark_tracker, still]
    cases o.kind <;> rfl

/-- Settles O19: the fence of the mark is lowered, to one more member, or to READY or DRAINING. -/
theorem markedResponsesLowerTheFence : Obligations.MarkedResponsesLowerTheFence := by
  intro s t o st d a g sl hr ho ha hs hp
  have answer : AnswerOf s t o st d (some g) a := ⟨ha⟩
  rw [exec_response_forward hr, answerForwarded_eq ho answer]
  have slot : State.groups { s with outstanding := s.outstanding.set t none } = s.groups := rfl
  refine ⟨fun hf => ?_, fun hf hready hq => ?_, fun hf hb => ?_⟩
  · rw [show State.lowerMark { s with outstanding := s.outstanding.set t none } (some g) = _ from
      lowerFence_waits (s := { s with outstanding := s.outstanding.set t none }) hs hf,
      modSlot_of_slot (s := { s with outstanding := s.outstanding.set t none }) hs]
    rfl
  · rw [show State.lowerMark { s with outstanding := s.outstanding.set t none } (some g) = _ from
      lowerFence_drains (s := { s with outstanding := s.outstanding.set t none }) hs hp hf hready hq,
      modSlot_of_slot (s := { s with outstanding := s.outstanding.set t none }) hs, hf]
    rfl
  · rw [show State.lowerMark { s with outstanding := s.outstanding.set t none } (some g) = _ from
      lowerFence_queues (s := { s with outstanding := s.outstanding.set t none }) hs hp hf hb,
      modSlot_of_slot (s := { s with outstanding := s.outstanding.set t none }) hs, hf]
    rfl

/-- Settles O20: the answer is counted and its entry freed, and the generation stays unfinished. -/
theorem drainResponsesCounted : Obligations.DrainResponsesCounted := by
  intro s b n sl e d hr hb hs hn he
  have entry : s.sealedAt n = some e := (sealedAt_eq s n).trans he
  have slot : ∀ x, (s.drainAnswered b n.group x).groups[n.group].slot = some x := by
    intro x
    simp [State.drainAnswered]
  constructor
  · rw [exec_response_drain hr, answerDrainTag_eq hb, drainCounted_ok b hs,
      drainFreed_of_unfinished (slot _) (hn.imp_left fun h => by simp only [SealedSlot.answered]; omega), freeSealed_eq]
    rfl
  · rw [exec_response_drain hr, answerDrainTag_eq hb, drainCounted_err b hs entry,
      drainFreed_of_unfinished (sl := sl.answered .err) ?slot ?unfinished, freeSealed_logRecord]
    case slot => simp only [logRecord_groups]; exact slot _
    case unfinished =>
      refine hn.imp (fun h => by simp only [SealedSlot.answered]; omega) fun hq => ?_
      exact (quiet_logRecord _ _ _ _).quiescing.trans hq
    rw [freeSealed_eq]
    rfl

end Sys2Proof.Proofs

/-! The last answer of a generation (O21): the count, the completion, the retry of the stall slot, the pending retire
seal and the head of the ready queue, in this order (R96). The reports commute with the rest, so that what is left is
the state `drainFinished`, its head drained and the records handed to the log. -/

namespace Sys2Proof.Machine

/-! ### The completion, its reports apart -/

/-- The state without the group's slot and with its retiring regions OFF (R96 steps 3 and 4, R14). -/
def State.vacated (s : State) (g : GroupId) : State := (s.freeSlot g).moveRegions g .retireDrain .off

/-- Handing a record to the log and vacating a slot do not meet. -/
theorem vacated_logRecord (s : State) (g : GroupId) (i : Fin 4) (ts : Stamp) (b : LogBody) :
    (s.logRecord i ts b).vacated g = (s.vacated g).logRecord i ts b := by
  unfold State.logRecord
  simp only [show (s.vacated g).log = s.log from rfl]
  split
  · rfl
  · split
    · split <;> rfl
    · rfl

/-- A completion: the slot vacated, the record and the flag (R96). -/
theorem finish_vacated {s : State} {g : GroupId} {sl : SealedSlot} (h : s.groups[g].slot = some sl) :
    s.finish g = ((s.vacated g).logRecord g s.now
      (.drainDone sl.gen sl.written sl.failed false sl.elapsed)).raise (.done g) := by
  rw [finish_of_slot h, ← vacated_logRecord]
  rfl

/-- The reports of a generation's last answer: with ERR the fault first, then DRAIN_DONE and DONE(g) (R95, R96). -/
def State.drainReport (s : State) (g : GroupId) (ts : Stamp) (sl : SealedSlot) (a : Addr) : MemStatus → State
  | .ok => (s.logRecord g ts (.drainDone sl.gen (sl.written + 1) sl.failed false sl.elapsed)).raise (.done g)
  | .err => ((((s.bump (.drainFaults g) 1).raise .drainFault).logRecord g ts (.drainFault a sl.gen)).logRecord g ts
      (.drainDone sl.gen sl.written (sl.failed + 1) false sl.elapsed)).raise (.done g)

/-- The reports follow from the log and the event unit. -/
theorem drainReport_noted (s : State) (ws : Vector Watch 4) {y : State} (g : GroupId) (ts : Stamp) (sl : SealedSlot)
    (a : Addr) (st : MemStatus) :
    (s.noted ws y.log y.events).drainReport g ts sl a st =
      s.noted ws (y.drainReport g ts sl a st).log (y.drainReport g ts sl a st).events := by
  cases st with
  | ok =>
    unfold State.drainReport
    dsimp only
    rw [logRecord_noted s ws y.log y.events g ts _ (u := y) rfl rfl]
    rfl
  | err =>
    have fault := logRecord_noted s ws y.log ((y.bump (.drainFaults g) 1).raise .drainFault).events g ts
      (.drainFault a sl.gen) (u := (y.bump (.drainFaults g) 1).raise .drainFault) rfl rfl
    unfold State.drainReport
    dsimp only
    rw [show ((s.noted ws y.log y.events).bump (.drainFaults g) 1).raise .drainFault =
      s.noted ws y.log ((y.bump (.drainFaults g) 1).raise .drainFault).events from rfl, fault,
      logRecord_noted s ws _ _ g ts _ (u := ((y.bump (.drainFaults g) 1).raise .drainFault).logRecord g ts
        (.drainFault a sl.gen)) rfl rfl]
    rfl

/-- A state with the log and events of its reports. -/
theorem drainReport_eq (s : State) (g : GroupId) (ts : Stamp) (sl : SealedSlot) (a : Addr) (st : MemStatus) :
    s.drainReport g ts sl a st =
      s.noted s.watches (s.drainReport g ts sl a st).log (s.drainReport g ts sl a st).events :=
  drainReport_noted s s.watches (y := s) g ts sl a st

/-- The reports and the head of the ready queue do not meet. -/
theorem startDrain_drainReport (s : State) (g : GroupId) (ts : Stamp) (sl : SealedSlot) (a : Addr) (st : MemStatus) :
    (s.drainReport g ts sl a st).startDrain = s.startDrain.drainReport g ts sl a st := by
  have own : s.startDrain = s.startDrain.noted s.watches s.log s.events := by
    rw [startDrain_eq]
    rfl
  rw [drainReport_eq, startDrain_noted, own, drainReport_noted s.startDrain s.watches (y := s)]
  rfl

/-! ### The generation finished -/

/-- What the last answer leaves before its reports and before the head of the ready queue (R94, R96). -/
def State.drainFinished (s : State) (b : Fin 4) (n : DrainBinding) : State :=
  { s with
    drainTags := s.drainTags.set b none
    groups := s.groups.set n.group { s.groups[n.group] with slot := none }
    regions := (s.moveRegions n.group .retireDrain .off).regions
    ready := s.ready.filter (· ≠ n.group)
    pool := s.pool.filter fun x => !decide (x.group = n.group ∧ x.role = .sealed ∧ x.arrival = n.arrival) }

theorem vacated_freeSealed (s : State) (b : Fin 4) (n : DrainBinding) (sl : SealedSlot) :
    ((s.drainAnswered b n.group sl).freeSealed n).vacated n.group = s.drainFinished b n := by
  rw [freeSealed_eq]
  have groups : (s.groups.set n.group { s.groups[n.group] with slot := some sl }).set n.group
      { (s.groups.set n.group { s.groups[n.group] with slot := some sl })[n.group] with slot := none } =
      s.groups.set n.group { s.groups[n.group] with slot := none } := by simp
  exact congrArg (fun v : Vector Group 4 => { s.drainFinished b n with groups := v }) groups

/-- The completion after the last answer (R94 to R96). -/
theorem finish_drainCounted {s : State} {b : Fin 4} {n : DrainBinding} {sl : SealedSlot} {e : Entry} (st : MemStatus)
    (hs : s.groups[n.group].slot = some sl) (he : st = .err → s.sealedAt n = some e) :
    ((s.drainCounted b n st).freeSealed n).finish n.group =
      (s.drainFinished b n).drainReport n.group s.now sl e.addr st := by
  have slot : ∀ x, ((s.drainAnswered b n.group x).freeSealed n).groups[n.group].slot = some x := by
    intro x
    show (s.drainAnswered b n.group x).groups[n.group].slot = some x
    simp [State.drainAnswered]
  cases st with
  | ok =>
    rw [drainCounted_ok b hs, finish_vacated (slot _), vacated_freeSealed]
    rfl
  | err =>
    rw [drainCounted_err b hs (he rfl), freeSealed_logRecord,
      finish_vacated (sl := sl.answered .err) (by rw [logRecord_groups]; exact slot _), vacated_logRecord]
    rw [show (((((s.drainAnswered b n.group (sl.answered .err)).bump (.drainFaults n.group) 1).raise
        .drainFault).freeSealed n).vacated n.group) =
        (((s.drainAnswered b n.group (sl.answered .err)).freeSealed n).vacated n.group |>.bump (.drainFaults n.group) 1
          |>.raise .drainFault) from rfl, vacated_freeSealed]
    have now : State.now (State.logRecord ((((s.drainAnswered b n.group (sl.answered .err)).bump (.drainFaults n.group)
        1).raise .drainFault).freeSealed n) n.group s.now (.drainFault e.addr sl.gen)) = s.now := by
      rw [logRecord_eq]
      rfl
    rw [now]
    rfl

theorem vector_ext {α : Type} {n : Nat} {v w : Vector α n} (h : ∀ k : Fin n, v[k] = w[k]) : v = w :=
  Vector.ext fun i hi => h ⟨i, hi⟩

/-! ### The head of the ready queue after the completion -/

/-- The next generation of the ready queue drains from its entry 0 (R90, R96). -/
theorem drainFinished_startDrain {s : State} (b : Fin 4) {n : DrainBinding} {rest : List GroupId}
    (hq : s.quiescing = false) (hr : s.ready = n.group :: rest) (hg : n.group ∉ rest)
    (hhead : ∀ h : GroupId, rest.head? = some h → ∃ x, s.groups[h].slot = some x ∧ x.phase = .ready) :
    (s.drainFinished b n).startDrain = { s with
      drainTags := s.drainTags.set b none
      groups := Vector.ofFn fun k =>
        if k = n.group then { s.groups[k] with slot := none }
        else if rest.head? = some k then
          { s.groups[k] with slot := s.groups[k].slot.map fun x => { x with phase := .draining } }
        else s.groups[k]
      nextIssue := if rest = [] then s.nextIssue else 0
      regions := Vector.ofFn fun r => if s.regions[r].group = n.group ∧ s.regions[r].state = .retireDrain then
        { s.regions[r] with state := .off } else s.regions[r]
      ready := rest
      pool := s.pool.filter fun x => !decide (x.group = n.group ∧ x.role = .sealed ∧ x.arrival = n.arrival) } := by
  have queue : (s.drainFinished b n).ready = rest := by
    show s.ready.filter (· ≠ n.group) = rest
    rw [hr, List.filter_cons_of_neg (by simp), List.filter_eq_self]
    intro k hk
    exact decide_eq_true fun e : k = n.group => hg (e ▸ hk)
  have own : (s.drainFinished b n).groups[n.group] = { s.groups[n.group] with slot := none } := by
    simp [State.drainFinished]
  have other : ∀ k : GroupId, k ≠ n.group → (s.drainFinished b n).groups[k] = s.groups[k] := by
    intro k hk
    have e : (n.group : Nat) ≠ k := fun e => hk (Fin.ext e).symm
    simp [State.drainFinished, Vector.getElem_set_ne, e]
  have headPhase : ∀ k : GroupId, rest.head? = some k → (s.drainFinished b n).phase k = some .ready := by
    intro k hk
    obtain ⟨x, hx, hp⟩ := hhead k hk
    unfold State.phase
    rw [other k (by rintro rfl; exact hg (List.mem_of_mem_head? hk)), hx, Option.map_some, hp]
  obtain ⟨groups, next⟩ := startDrain_cases (s := s.drainFinished b n) hq
  rw [queue] at groups next
  have groups' : (s.drainFinished b n).startDrain.groups = Vector.ofFn fun k =>
      if k = n.group then { s.groups[k] with slot := none }
      else if rest.head? = some k then
        { s.groups[k] with slot := s.groups[k].slot.map fun x => { x with phase := .draining } }
      else s.groups[k] := by
    refine vector_ext fun k => ?_
    rw [groups k]
    simp only [Fin.getElem_fin, Vector.getElem_ofFn]
    by_cases hk : k = n.group
    · subst hk
      rw [if_pos rfl, withHeadDraining_of_ne fun e => hg (List.mem_of_mem_head? e)]
      exact own
    · rw [if_neg hk]
      by_cases hd : rest.head? = some k
      · rw [if_pos hd]
        unfold State.withHeadDraining
        rw [if_pos ⟨hd, headPhase k hd⟩, other k hk]
        rfl
      · rw [if_neg hd, withHeadDraining_of_ne hd, other k hk]
        rfl
  have next' : (s.drainFinished b n).startDrain.nextIssue = if rest = [] then s.nextIssue else 0 := by
    rw [next]
    rcases rest with _ | ⟨k, l⟩
    · rfl
    · rw [headReady_of_head (q := k :: l) rfl, headPhase k rfl, if_pos (by simp), if_neg (by simp)]
  rw [startDrain_eq, groups', next', ← queue]
  rfl

/-! ### The last answer -/

/-- The answer to the last drain write of its generation, outside a quiesce (R96). -/
structure LastAnswer (s : State) (b : Fin 4) (n : DrainBinding) (sl : SealedSlot) (e : Entry) (st : MemStatus) :
    Prop where
  awake : s.inReset = false
  quiescing : s.quiescing = false
  tag : s.drainTags[b] = some n
  slot : s.groups[n.group].slot = some sl
  draining : sl.phase = .draining
  last : sl.written + sl.failed + 1 = sl.entries
  entry : st = .err → s.sealedAt n = some e

/-- What the completion of the last answer leaves before the retry, the pending seal and the head of the queue. -/
def State.drainDone (s : State) (b : Fin 4) (n : DrainBinding) (sl : SealedSlot) (e : Entry) (st : MemStatus) : State :=
  (s.drainFinished b n).drainReport n.group s.now sl e.addr st

theorem drainCounted_eq (s : State) (b : Fin 4) (n : DrainBinding) (st : MemStatus) :
    s.drainCounted b n st = { s with
      drainTags := (s.drainCounted b n st).drainTags, groups := (s.drainCounted b n st).groups
      log := (s.drainCounted b n st).log, events := (s.drainCounted b n st).events } := by
  cases st with
  | ok => rfl
  | err =>
    obtain ⟨l, ev, h⟩ : ∃ l ev, s.drainCounted b n .err =
        { State.modSlot { s with drainTags := s.drainTags.set b none } n.group
            (fun sl => { sl with failed := sl.failed + 1 }) with log := l, events := ev } :=
      ⟨_, _, logRecord_eq _ _ _ _⟩
    rw [h]
    rfl

theorem drainCounted_group {s : State} {b : Fin 4} {n : DrainBinding} {sl : SealedSlot} {e : Entry} {st : MemStatus}
    (h : LastAnswer s b n sl e st) :
    (s.drainCounted b n st).groups[n.group] = { s.groups[n.group] with slot := some (sl.answered st) } := by
  cases st with
  | ok =>
    rw [drainCounted_ok b h.slot]
    simp [State.drainAnswered]
  | err =>
    rw [drainCounted_err b h.slot (h.entry rfl), logRecord_groups]
    show (s.drainAnswered b n.group _).groups[n.group] = _
    simp [State.drainAnswered]

theorem answered_last {sl : SealedSlot} (st : MemStatus) (h : sl.written + sl.failed + 1 = sl.entries) :
    (sl.answered st).written + (sl.answered st).failed = (sl.answered st).entries := by
  cases st <;> simp only [SealedSlot.answered] <;> omega

/-- The last answer completes the generation, where the retry before it leaves the group records (R33, R96). -/
theorem LastAnswer.run {s x : State} {b : Fin 4} {n : DrainBinding} {sl : SealedSlot} {e : Entry} {st : MemStatus}
    (h : LastAnswer s b n sl e st) (d : Lanes) (hx : ((s.drainCounted b n st).freeSealed n).retry = x)
    (hg : x.groups = (s.drainCounted b n st).groups) :
    exec (.downstreamResponse (drainTag b) st d) s = .next (x.complete n.group) := by
  have quiescing : x.quiescing = false := by
    rw [← hx, (quiet_retry _).quiescing, freeSealed_eq, drainCounted_eq]
    exact h.quiescing
  have drained : x.drained n.group = true := by
    unfold State.drained
    rw [quiescing]
    simp only [hg, drainCounted_group h]
    have phase : (sl.answered st).phase = .draining := by cases st <;> exact h.draining
    simp [phase, answered_last st h.last]
  rw [exec_response_drain h.awake, answerDrainTag_eq h.tag]
  unfold State.drainFreed
  dsimp only
  rw [hx, drained]
  rfl

/-- The completion after the last answer is that of `drainDone` (R96). -/
theorem LastAnswer.finish {s : State} {b : Fin 4} {n : DrainBinding} {sl : SealedSlot} {e : Entry} {st : MemStatus}
    (h : LastAnswer s b n sl e st) :
    ((s.drainCounted b n st).freeSealed n).finish n.group = s.drainDone b n sl e st :=
  finish_drainCounted st h.slot h.entry

theorem drainDone_eq (s : State) (b : Fin 4) (n : DrainBinding) (sl : SealedSlot) (e : Entry) (st : MemStatus) :
    s.drainDone b n sl e st =
      (s.drainFinished b n).noted s.watches (s.drainDone b n sl e st).log (s.drainDone b n sl e st).events :=
  drainReport_eq _ _ _ _ _ _

/-- Freeing SEALED entries leaves the OPEN ones (R37). -/
theorem openCount_freeSealed (s : State) (n : DrainBinding) (g : GroupId) :
    (s.freeSealed n).openCount g = s.openCount g := by
  unfold State.openCount State.freeSealed
  rw [List.countP_filter]
  apply List.countP_congr
  intro e _
  cases h : e.isOf g .opened
  · simp
  · have role := ((Entry.isOf_iff e g .opened).1 h).2
    simp [Entry.isOf, role]

theorem offerPending_idle {s : State} {g : GroupId} (h : s.groups[g].pendingRetire = false ∨ s.canSeal g = false) :
    s.offerPending g = s := by
  unfold State.offerPending
  rw [if_neg]
  rcases h with h | h <;> rw [h] <;> simp

theorem withHeadDraining_startDrain {s : State} (hq : s.quiescing = false) (k : GroupId) :
    s.startDrain.withHeadDraining s.ready k = s.startDrain.groups[k] := by
  by_cases hk : s.ready.head? = some k
  · apply withHeadDraining_of_phase
    unfold State.phase
    rw [(startDrain_cases hq).1 k]
    exact phase_withHeadDraining s _ hk
  · exact withHeadDraining_of_ne hk

/-- Beside its own group a seal behind a head that drains leaves the groups and the next-issue number (R90). -/
theorem SealLeaves.beside {s t : State} {g : GroupId} {c : SealCause} {ts : Stamp}
    (h : SealLeaves s.startDrain t g c ts) (hq : s.quiescing = false) :
    (∀ k : GroupId, k ≠ g → t.groups[k] = s.startDrain.groups[k]) ∧
      (s.startDrain.nextIssue = 0 → t.nextIssue = 0) := by
  have ready : s.startDrain.ready = s.ready := by rw [startDrain_eq]
  refine ⟨fun k hk => ?_, fun h0 => ?_⟩
  · rw [h.others k hk, ready, withHeadDraining_startDrain hq, ite_self]
  · rw [h.nextIssue, h0, ite_self]

theorem EmptySealLeaves.beside {s t : State} {g : GroupId} {c : SealCause} {ts : Stamp}
    (h : EmptySealLeaves s.startDrain t g c ts) (hq : s.quiescing = false) (hg : g ∉ s.ready) :
    (∀ k : GroupId, k ≠ g → t.groups[k] = s.startDrain.groups[k]) ∧
      (s.startDrain.nextIssue = 0 → t.nextIssue = 0) := by
  have ready : t.ready = s.ready := by
    rw [h.ready, startDrain_eq]
    refine List.filter_eq_self.2 fun a ha => ?_
    exact decide_eq_true fun e : a = g => hg (e ▸ ha)
  refine ⟨fun k hk => ?_, fun h0 => ?_⟩
  · rw [h.others k hk, ready, withHeadDraining_startDrain hq]
  · rw [h.nextIssue, h0, ite_self]

/-- An answered last drain write with the stall slot EMPTY, or with the retries that change the slot alone: what comes
after the completion (R96). -/
theorem LastAnswer.run_done {s : State} {b : Fin 4} {n : DrainBinding} {sl : SealedSlot} {e : Entry} {st : MemStatus}
    (h : LastAnswer s b n sl e st) (d : Lanes)
    (hx : ((s.drainCounted b n st).freeSealed n).retry = (s.drainCounted b n st).freeSealed n) :
    exec (.downstreamResponse (drainTag b) st d) s = .next
      (State.startDrain (State.offerPending
        (if s.retiring n.group then (s.drainDone b n sl e st).retry else s.drainDone b n sl e st) n.group)) := by
  rw [h.run d hx (by rw [freeSealed_eq])]
  unfold State.complete
  dsimp only
  rw [h.finish]
  have retiring : ((s.drainCounted b n st).freeSealed n).retiring n.group = s.retiring n.group := by
    rw [freeSealed_eq, drainCounted_eq]
    rfl
  rw [retiring]

theorem drainDone_stall (s : State) (b : Fin 4) (n : DrainBinding) (sl : SealedSlot) (e : Entry) (st : MemStatus) :
    (s.drainDone b n sl e st).stall = s.stall := by
  rw [drainDone_eq]
  rfl

theorem drainDone_group (s : State) (b : Fin 4) (n : DrainBinding) (sl : SealedSlot) (e : Entry) (st : MemStatus) :
    (s.drainDone b n sl e st).groups[n.group] = { s.groups[n.group] with slot := none } := by
  rw [drainDone_eq]
  show (s.groups.set n.group { s.groups[n.group] with slot := none })[n.group] = _
  simp

theorem drainDone_openCount (s : State) (b : Fin 4) (n : DrainBinding) (sl : SealedSlot) (e : Entry) (st : MemStatus)
    (g : GroupId) : (s.drainDone b n sl e st).openCount g = s.openCount g := by
  rw [← openCount_freeSealed s n g, freeSealed_eq, drainDone_eq]
  rfl

theorem drainDone_canSeal (s : State) (b : Fin 4) (n : DrainBinding) (sl : SealedSlot) (e : Entry) (st : MemStatus) :
    (s.drainDone b n sl e st).canSeal n.group = (!s.held && !s.quiescing) := by
  unfold State.canSeal
  rw [drainDone_group, drainDone_eq]
  show (!s.held && !s.quiescing && Option.isNone none) = _
  simp

/-- With no write stalled only the pending retire seal and the head of the queue are left (R96). -/
theorem LastAnswer.run_unstalled {s : State} {b : Fin 4} {n : DrainBinding} {sl : SealedSlot} {e : Entry}
    {st : MemStatus} (h : LastAnswer s b n sl e st) (d : Lanes) (hst : s.stall = none) :
    exec (.downstreamResponse (drainTag b) st d) s = .next
      ((s.drainDone b n sl e st).offerPending n.group).startDrain := by
  have empty : ((s.drainCounted b n st).freeSealed n).stall = none := by
    rw [freeSealed_eq, drainCounted_eq]
    exact hst
  rw [h.run_done d (retry_of_empty empty), retry_of_empty ((drainDone_stall ..).trans hst), ite_self]

/-- The state with another stall slot. -/
def State.withStall (s : State) (w : Option StalledWrite) : State := { s with stall := w }

theorem logRecord_withStall (s : State) (w : Option StalledWrite) (i : Fin 4) (ts : Stamp) (b : LogBody) :
    (s.withStall w).logRecord i ts b = (s.logRecord i ts b).withStall w := by
  unfold State.logRecord
  simp only [show (s.withStall w).log = s.log from rfl]
  split
  · rfl
  · split
    · split <;> rfl
    · rfl

/-- The count of an answer does not read the stall slot. -/
theorem drainCounted_withStall (s : State) (w : Option StalledWrite) (b : Fin 4) (n : DrainBinding) (st : MemStatus) :
    (s.withStall w).drainCounted b n st = (s.drainCounted b n st).withStall w := by
  cases st with
  | ok => rfl
  | err =>
    unfold State.drainCounted State.drainFaulted
    dsimp only
    rw [← logRecord_withStall]
    rfl

theorem drainDone_withStall (s : State) (w : Option StalledWrite) (b : Fin 4) (n : DrainBinding) (sl : SealedSlot)
    (e : Entry) (st : MemStatus) :
    (s.withStall w).drainDone b n sl e st = (s.drainDone b n sl e st).withStall w := by
  cases st with
  | ok => exact congrArg (State.raise · (.done n.group)) (logRecord_withStall (s.drainFinished b n) w _ _ _)
  | err =>
    have fault := logRecord_withStall
      (((s.drainFinished b n).bump (.drainFaults n.group) 1).raise .drainFault) w n.group s.now (.drainFault e.addr sl.gen)
    have done := logRecord_withStall (((((s.drainFinished b n).bump (.drainFaults n.group) 1).raise
      .drainFault).logRecord n.group s.now (.drainFault e.addr sl.gen))) w n.group s.now
      (.drainDone sl.gen sl.written (sl.failed + 1) false sl.elapsed)
    rw [← fault] at done
    exact congrArg (State.raise · (.done n.group)) done

/-- The forward queue's tail and the head of the ready queue do not meet. -/
theorem startDrain_forwardStalled (s : State) (w : StalledWrite) :
    (s.forwardStalled w).startDrain = s.startDrain.forwardStalled w := by
  unfold State.startDrain
  rw [show (s.forwardStalled w).ready = s.ready from rfl]
  split
  · rfl
  · rename_i g _ _
    rw [show (s.forwardStalled w).quiescing = s.quiescing from rfl,
      show (s.forwardStalled w).phase g = s.phase g from rfl]
    split <;> rfl

/-- The stalled write of a region that the completion turns OFF is forwarded (R14, R33). -/
theorem LastAnswer.run_forwards {s : State} {b : Fin 4} {n : DrainBinding} {sl : SealedSlot} {e : Entry}
    {st : MemStatus} (h : LastAnswer s b n sl e st) (d : Lanes) {w : StalledWrite} (hw : s.stall = some w)
    (hg : s.regions[w.region].group = n.group) (hr : s.regions[w.region].state = .retireDrain)
    (hp : s.groups[n.group].pendingRetire = false) :
    exec (.downstreamResponse (drainTag b) st d) s = .next
      (State.startDrain ((s.drainDone b n sl e st).forwardStalled w)) := by
  let waiting : Option StalledWrite := some { w with cause := .retireDrain }
  have h' : LastAnswer (s.withStall waiting) b n sl e st :=
    ⟨h.awake, h.quiescing, h.tag, h.slot, h.draining, h.last, h.entry⟩
  have counted := drainCounted_withStall s waiting b n st
  have waits : ((s.drainCounted b n st).freeSealed n).retry =
      ((s.withStall waiting).drainCounted b n st).freeSealed n := by
    refine retry_of_judge ((judge_retireDrain (w := w) ?_ ?_).trans ?_)
    · rw [freeSealed_eq, drainCounted_eq]
      exact hw
    · rw [freeSealed_eq, drainCounted_eq]
      exact hr
    · rw [counted]
      rfl
  have retiring : (((s.withStall waiting).drainCounted b n st).freeSealed n).retiring n.group = true := by
    have regions : (((s.withStall waiting).drainCounted b n st).freeSealed n).regions = s.regions := by
      rw [freeSealed_eq, drainCounted_eq]
      rfl
    refine List.any_eq_true.2 ⟨w.region, mem_allRegions _, ?_⟩
    simp only [regions]
    rw [decide_eq_true hg, hr]
    rfl
  have done := drainDone_withStall s waiting b n sl e st
  have off : (s.drainDone b n sl e st).regions[w.region].state = .off := by
    rw [drainDone_eq]
    show (s.moveRegions n.group .retireDrain .off).regions[w.region].state = .off
    rw [moveRegions_region, if_pos ⟨hg, hr⟩]
  have forwards : State.retry ((s.drainDone b n sl e st).withStall waiting) =
      (s.drainDone b n sl e st).forwardStalled w :=
    retry_of_judge (judge_off (s := (s.drainDone b n sl e st).withStall waiting) (w := { w with cause := .retireDrain })
      rfl off)
  rw [h.run d waits (by rw [counted]; rfl)]
  unfold State.complete
  dsimp only
  rw [h'.finish, retiring, if_pos rfl, done, forwards, offerPending_idle (.inl ?_)]
  show (s.drainDone b n sl e st).groups[n.group].pendingRetire = false
  rw [drainDone_group]
  exact hp

/-! ### The stalled write that asks again -/

theorem mem_freeSealed_pool {s : State} {n : DrainBinding} {e : Entry} (h : e ∈ (s.freeSealed n).pool) : e ∈ s.pool :=
  List.mem_of_mem_filter h

/-- The entry of an answered drain write leaves room in the pool (R37). -/
theorem freeSealed_length_lt {s : State} {n : DrainBinding}
    (h : ∃ e ∈ s.pool, e.group = n.group ∧ e.role = .sealed ∧ e.arrival = n.arrival) :
    (s.freeSealed n).pool.length < s.pool.length := by
  obtain ⟨e, he, hg, hr, ha⟩ := h
  refine List.length_filter_lt_length_iff_exists.2 ⟨e, he, ?_⟩
  simp [Entry.isOf, hg, hr, ha]

theorem drainDone_pool (s : State) (b : Fin 4) (n : DrainBinding) (sl : SealedSlot) (e : Entry) (st : MemStatus) :
    (s.drainDone b n sl e st).pool = (s.freeSealed n).pool := by
  rw [drainDone_eq, freeSealed_eq]
  rfl

/-- The stalled write of a group that waits for quota seals it once the slot is NONE, and is staged (R33, log 25). -/
theorem LastAnswer.run_seals {s : State} {b : Fin 4} {n : DrainBinding} {sl : SealedSlot} {e : Entry} {st : MemStatus}
    (h : LastAnswer s b n sl e st) (d : Lanes) {w : StalledWrite} (hw : s.stall = some w)
    (hg : s.regions[w.region].group = n.group) (hr : s.regions[w.region].state = .staging)
    (hp : s.groups[n.group].pendingRetire = false) (hh : s.hold.state ≠ .held)
    (hpress : s.groups[n.group].pressureSeal = true)
    (hret : ∃ r : RegionId, s.regions[r].group = n.group ∧ s.regions[r].state = .retireDrain)
    (hf : s.findEntry n.group .opened (doubleword w.addr) = none) (hq : 1 ≤ s.groups[n.group].quota)
    (hfull : s.groups[n.group].quota ≤ s.openCount n.group) :
    exec (.downstreamResponse (drainTag b) st d) s = .next (State.startDrain (s.drainDone b n sl e st).retry) ∧
      SealLeaves (s.drainDone b n sl e st) (s.drainDone b n sl e st).retry n.group .pressure s.now ∧
      ((s.freeSealed n).pool.length < 64 →
        (s.drainDone b n sl e st).retry.stall = none ∧
        (s.drainDone b n sl e st).retry.responses =
          s.responses ++ [{ tag := w.tag, status := .ok, data := none, holdsTag := true }] ∧
        (s.drainDone b n sl e st).retry.pool = ((s.freeSealed n).pool.map fun e =>
            if e.group = n.group ∧ e.role = .opened then { e with role := .sealed, issued := false } else e) ++
          [{ addr := doubleword w.addr, data := maskLanes (laneMask w.addr w.size) w.data,
             mask := laneMask w.addr w.size, group := n.group, role := .opened, arrival := 0, issued := false }]) := by
  let f := s.drainDone b n sl e st
  have group : f.groups[n.group] = { s.groups[n.group] with slot := none } := drainDone_group ..
  have region : f.regions[w.region] = s.regions[w.region] := by
    show (s.drainDone b n sl e st).regions[w.region] = _
    rw [drainDone_eq]
    show (s.moveRegions n.group .retireDrain .off).regions[w.region] = _
    rw [moveRegions_region, if_neg fun k => by rw [hr] at k; cases k.2]
  have missing : ∀ u : State, (∀ x ∈ u.pool, x ∈ s.pool) → u.findEntry n.group .opened (doubleword w.addr) = none :=
    fun u hu => (findEntry_eq_none_iff ..).2 fun x hx => (findEntry_eq_none_iff ..).1 hf x (hu x hx)
  -- before the completion the occupied slot turns the request away
  have waits : ((s.drainCounted b n st).freeSealed n).retry = (s.drainCounted b n st).freeSealed n := by
    have counted := drainCounted_group h
    have stall : ((s.drainCounted b n st).freeSealed n).stall = some w := by
      rw [freeSealed_eq, drainCounted_eq]
      exact hw
    have regions : ((s.drainCounted b n st).freeSealed n).regions = s.regions := by
      rw [freeSealed_eq, drainCounted_eq]
    have counts : ((s.drainCounted b n st).freeSealed n).openCount n.group = s.openCount n.group := by
      rw [openCount_freeSealed, drainCounted_eq]
      rfl
    have quota : (s.drainCounted b n st).groups[n.group].quota = s.groups[n.group].quota := by
      rw [counted]
    have none' : ((s.drainCounted b n st).freeSealed n).findEntry n.group .opened (doubleword w.addr) = none := by
      refine missing _ fun x hx => ?_
      have := mem_freeSealed_pool hx
      rwa [drainCounted_eq] at this
    rw [retry_failed stall (.inl (by simp only [regions]; exact hr)) (by
      simp only [regions]
      rw [hg]
      exact offer_fails _ _ none' (.inr (by rw [counts]; exact quota.trans_le hfull)))]
    split
    · apply pressureRequest_idle
      simp only [regions]
      rw [hg]
      refine Bool.eq_false_iff.2 fun k => ?_
      have := ((canSeal_iff _ _).1 k).2.2
      rw [show ((s.drainCounted b n st).freeSealed n).groups = (s.drainCounted b n st).groups from rfl, counted] at this
      cases this
    · rfl
  have retiring : s.retiring n.group = true := by
    obtain ⟨r, hrg, hrs⟩ := hret
    exact List.any_eq_true.2 ⟨r, mem_allRegions r, by rw [decide_eq_true hrg, hrs]; rfl⟩
  have can := (canSeal_iff f n.group).1 (by
    show (s.drainDone b n sl e st).canSeal n.group = true
    rw [drainDone_canSeal, h.quiescing]
    simpa [State.held] using hh)
  obtain ⟨held, quiescing, slot⟩ := can
  have now : f.now = s.now := by
    show (s.drainDone b n sl e st).now = _
    rw [drainDone_eq]
    rfl
  obtain ⟨L, wait⟩ := retry_pressure_leaves (s := f) (w := w) (g := n.group) ((drainDone_stall ..).trans hw)
    (by rw [region, hg]) (.inl (by rw [region, hr]))
    (missing _ fun x hx => mem_freeSealed_pool (by rwa [drainDone_pool] at hx))
    (.inr (by rw [group, drainDone_openCount]; exact hfull)) (by rw [group]; exact hpress)
    (by rw [drainDone_openCount]; omega) held quiescing slot
  rw [now] at L
  refine ⟨?_, L, fun hlen => ?_⟩
  · rw [h.run_done d waits, retiring, if_pos rfl, offerPending_idle (.inl ?_)]
    rw [L.pending, group, hp]
    rfl
  · obtain ⟨e1, e2, e3⟩ := (wait _ rfl).2.2 (by rw [region, hr]) (by rw [drainDone_pool]; exact hlen)
      (by rw [group]; exact hq)
    refine ⟨e1, e2.trans ?_, e3.trans ?_⟩
    · rw [show f.responses = s.responses by
        show (s.drainDone b n sl e st).responses = _
        rw [drainDone_eq]
        rfl]
    · rw [show f.pool = (s.freeSealed n).pool from drainDone_pool ..]

end Sys2Proof.Machine

namespace Sys2Proof.Proofs

open Sys2Proof.Machine

/-- Settles O21: what is left is `drainDone` with the head of the queue drained, beside it the pending retire seal, or
what becomes of the stalled write. -/
theorem lastDrainResponseCompletes : Obligations.LastDrainResponseCompletes := by
  intro s v u b n sl e st d g rest hr hq hb hn hs hp hlast hready hg hhead he hv hu
  subst hn
  have h : LastAnswer s b n sl e st := ⟨hr, hq, hb, hs, hp, hlast, fun k => (sealedAt_eq s n).trans (he k)⟩
  let f := s.drainDone b n sl e st
  have left : u = f.startDrain := by
    have reports : f.startDrain = (s.drainFinished b n).startDrain.drainReport n.group s.now sl e.addr st :=
      startDrain_drainReport _ _ _ _ _ _
    rw [reports, drainFinished_startDrain b hq hready hg hhead, hu, hv]
    cases st <;> rfl
  have queue : f.ready = rest := by
    show (s.drainDone b n sl e st).ready = rest
    rw [drainDone_eq]
    show s.ready.filter (· ≠ n.group) = rest
    rw [hready, List.filter_cons_of_neg (by simp), List.filter_eq_self]
    intro k hk
    exact decide_eq_true fun e : k = n.group => hg (e ▸ hk)
  have quiet : f.quiescing = false := by
    show (s.drainDone b n sl e st).quiescing = false
    rw [drainDone_eq]
    exact hq
  have behind : n.group ∉ f.ready := by rw [queue]; exact hg
  have group : f.groups[n.group] = { s.groups[n.group] with slot := none } := drainDone_group ..
  have now : f.now = s.now := by
    show (s.drainDone b n sl e st).now = _
    rw [drainDone_eq]
    rfl
  have next : rest ≠ [] → f.startDrain.nextIssue = 0 := by
    intro k
    rw [← left, hu, hv]
    cases st
    · show State.nextIssue (State.logRecord _ _ _ _) = 0
      rw [logRecord_eq]
      exact if_neg k
    · show State.nextIssue (State.logRecord _ _ _ _) = 0
      rw [logRecord_eq, logRecord_eq]
      exact if_neg k
  have upool : f.startDrain.pool = f.pool := by rw [startDrain_eq]
  rw [left]
  refine ⟨fun hst => ⟨fun hpend => ?idle, fun hpend hheld => ?pending⟩, fun w hw hpend hwg => ⟨fun hwr => ?forwards,
    fun hwr hheld hpress hret hf hlen hx hquota hfull => ?seals⟩⟩
  case idle =>
    have offered : f.offerPending n.group = f := by
      refine offerPending_idle (hpend.imp (fun k => by rw [group]; exact k) fun k => ?_)
      show (s.drainDone b n sl e st).canSeal n.group = false
      rw [drainDone_canSeal]
      simp [State.held, k]
    rw [h.run_unstalled d hst, offered]
  case pending =>
    have can : f.canSeal n.group = true := by
      show (s.drainDone b n sl e st).canSeal n.group = true
      rw [drainDone_canSeal, hq]
      simpa [State.held] using hheld
    have offered : f.offerPending n.group = f.sealFull n.group .retire s.now := by
      rw [← now]
      refine if_pos ?_
      rw [group, can]
      exact (Bool.and_true _).trans hpend
    have opens : f.openCount n.group = s.openCount n.group := drainDone_openCount ..
    have empty : f.stall = none := (drainDone_stall ..).trans hst
    have after : (f.sealFull n.group .retire s.now).quiescing = false := (quiet_sealFull ..).quiescing.trans quiet
    refine ⟨_, (h.run_unstalled d hst).trans (congrArg (fun x => Host.Outcome.next x.startDrain) offered), ?_⟩
    by_cases hopen : 0 < s.openCount n.group
    · have hopen' : 0 < f.openCount n.group := by rw [opens]; exact hopen
      have L := sealGroup_leaves (s := f) .retire s.now hopen' quiet
      rw [← sealFull_of_entries .retire s.now hopen' empty] at L
      have L' := L.startDrain quiet after behind
      obtain ⟨others, next'⟩ := L'.beside quiet
      refine ⟨others, fun k => next' (next k), fun _ => ⟨L', ?_⟩, fun k => by omega⟩
      rw [upool, startDrain_eq (State.sealFull _ _ _ _), sealFull_of_entries .retire s.now hopen' empty, sealGroup_eq]
      exact takeSeal_pool _ _ _
    · have hopen' : f.openCount n.group = 0 := by rw [opens]; omega
      have L := sealFull_leaves_empty (s := f) (c := .retire) s.now hopen' empty (.inl rfl) quiet
      have L' := L.startDrain quiet behind
      obtain ⟨others, next'⟩ := L'.beside quiet behind
      exact ⟨others, fun k => next' (next k), fun k => absurd k hopen, fun _ => L'⟩
  case forwards =>
    rw [h.run_forwards d hw hwg hwr hpend]
    rw [startDrain_forwardStalled]
    rfl
  case seals =>
    obtain ⟨run, L, wait⟩ := h.run_seals d hw hwg hwr hpend hheld hpress hret hf hquota hfull
    obtain ⟨stall, responses, pool⟩ := wait (Nat.lt_of_lt_of_le (freeSealed_length_lt hx) hlen)
    have L' := L.startDrain quiet ((quiet_retry _).quiescing.trans quiet) behind
    obtain ⟨others, next'⟩ := L'.beside quiet
    refine ⟨_, run, L', others, fun k => next' (next k), ?_, ?_, ?_⟩
    · rw [startDrain_eq]
      exact stall
    · rw [startDrain_eq]
      exact responses
    · rw [startDrain_eq, upool]
      exact pool.trans (by rw [← drainDone_pool s b n sl e st])

end Sys2Proof.Proofs

/-! The timebase (O22 to O24): one equation for each way the counter steps, and what a tick leaves of the timebase
whatever else falls due at it. -/

namespace Sys2Proof.Machine

/-! ### The counter's step, case by case -/

theorem step_stopped {t : Timebase} (h : t.running = false) : t.step = { after := t, events := [], dir := t.dir } :=
  if_neg (by rw [h]; exact Bool.false_ne_true)

theorem step_up {t : Timebase} (hr : t.running = true) (hm : t.mode = .up) : t.step = t.stepUp := by
  simp only [Timebase.step, hr, hm, if_true]

theorem step_updown {t : Timebase} (hr : t.running = true) (hm : t.mode = .updown) : t.step = t.stepUpdown := by
  simp only [Timebase.step, hr, hm, if_true]

theorem step_up_climbs {t : Timebase} (hr : t.running = true) (hm : t.mode = .up) (h : t.count < t.limit) :
    t.step = { after := { t with count := t.count + 1, dir := .up },
               events := eventIf (t.count + 1 == t.limit) .limit ++ eventIf (t.count + 1 == t.mark) .markUp,
               dir := .up } := by
  rw [step_up hr hm]
  exact if_pos h

theorem step_up_wraps {t : Timebase} (hr : t.running = true) (hm : t.mode = .up) (h : t.count = t.limit) :
    t.step = { after := t.zeroed, events := .zero :: eventIf (t.markShadow == 0) .markUp, dir := .up } := by
  rw [step_up hr hm]
  exact if_neg (by omega)

theorem step_updown_climbs {t : Timebase} (hr : t.running = true) (hm : t.mode = .updown) (h : t.dir = .up) :
    t.step = { after := { t with count := t.count + 1, dir := if t.count + 1 = t.limit then .down else .up },
               events := eventIf (t.count + 1 == t.limit) .peak ++ eventIf (t.count + 1 == t.mark) .markUp,
               dir := .up } := by
  rw [step_updown hr hm]
  simp only [Timebase.stepUpdown, h]

theorem step_updown_descends {t : Timebase} (hr : t.running = true) (hm : t.mode = .updown) (hd : t.dir = .down)
    (h : 1 < t.count) :
    t.step = { after := { t with count := t.count - 1 }, events := eventIf (t.count - 1 == t.mark) .markDown,
               dir := .down } := by
  have above : t.count - 1 ≠ 0 := by omega
  rw [step_updown hr hm]
  simp only [Timebase.stepUpdown, hd, if_neg above]

theorem step_updown_lands {t : Timebase} (hr : t.running = true) (hm : t.mode = .updown) (hd : t.dir = .down)
    (h : t.count = 1) :
    t.step = { after := t.zeroed, events := .zero :: eventIf (t.markShadow == 0) .markDown, dir := .down } := by
  rw [step_updown hr hm]
  simp only [Timebase.stepUpdown, hd, h, Nat.sub_self, if_true]
  rfl

theorem step_oneshot {t : Timebase} (hr : t.running = true) (hm : t.mode = .oneshot) :
    t.step = { after := { t with count := t.count + 1, dir := .up, running := t.count + 1 != t.limit },
               events := eventIf (t.count + 1 == t.limit) .limit ++ eventIf (t.count + 1 == t.mark) .markUp,
               dir := .up } := by
  have stepped : t.step = t.stepOneshot := by simp only [Timebase.step, hr, hm, if_true]
  exact stepped

theorem mem_eventIf (b : Bool) (e k : TbEvent) : k ∈ eventIf b e ↔ k = e ∧ b = true := by
  cases b <;> simp [eventIf]

/-! ### What a tick leaves of the timebase -/

theorem tickFirst_timebase (s : State) (first : Due → Bool) :
    (s.tickFirst first).timebase = { s.timebase.step.after with interval := s.timebase.prescale } :=
  (still_applyAll s.advance first s.dueAtTick).timebase

theorem exec_tick {s : State} (hr : s.inReset = false) : exec .tick s = .next (s.tickFirst fun _ => false) :=
  if_neg (by rw [hr]; exact Bool.false_ne_true)

/-- The tick that goes by the name of an event of its step is a whole tick (log 1). -/
theorem tickOf_of_event {s : State} {k : TbEvent} (hr : s.inReset = false) (h : k ∈ s.timebase.step.events) :
    s.tickOf k = s.tickFirst (Due.delivers k) :=
  if_pos (by rw [hr]; simpa using h)

theorem tickOf_timebase {s : State} {k : TbEvent} {tb : Timebase} (hr : s.inReset = false)
    (h : k ∈ s.timebase.step.events)
    (ht : { s.timebase.step.after with interval := s.timebase.prescale } = tb) : (s.tickOf k).timebase = tb := by
  rw [tickOf_of_event hr h, tickFirst_timebase, ht]

/-! ### A tick at which nothing falls due -/

theorem applyAll_nil (s : State) (first : Due → Bool) : s.applyAll first [] = s := rfl

/-- The stalled write does not expire at the tick that makes it this old (R35). -/
theorem advance_stallDue_eq_false {s : State}
    (h : ∀ w, s.stall = some w → min 65535 (w.elapsed + 1) < s.stallLimit) : s.advance.stallDue = false := by
  unfold State.stallDue
  rw [show s.advance.stall = s.stall.map StalledWrite.aged from rfl]
  cases hw : s.stall with
  | none => rfl
  | some w =>
    have := h w hw
    exact decide_eq_false (Nat.not_le.2 this)

theorem ticked_of_not_filtering {h : Hold} (hf : h.state ≠ .filtering) : h.ticked = h := if_neg hf

theorem ticked_state (h : Hold) : h.ticked.state = h.state := by
  unfold Hold.ticked
  split <;> rfl

theorem ticked_filter (h : Hold) : h.ticked.filter = h.filter := by
  unfold Hold.ticked
  split <;> rfl

theorem ticked_counter (h : Hold) : h.ticked.counter = if h.state = .filtering then h.counter + 1 else h.counter := by
  unfold Hold.ticked
  split <;> rfl

theorem advance_filterDue_eq (s : State) :
    s.advance.filterDue = (decide (s.hold.state = .filtering) && decide (s.hold.filter ≤ s.hold.counter + 1)) := by
  unfold State.filterDue
  rw [show s.advance.hold = s.hold.ticked from rfl, ticked_state, ticked_filter, ticked_counter]
  by_cases h : s.hold.state = .filtering
  · rw [if_pos h]
  · rw [decide_eq_false h, Bool.false_and, Bool.false_and]

/-- With the counter STOPPED a tick delivers nothing (R48). -/
theorem deliveries_nil (s : State) (ts : Stamp) : s.deliveries [] ts = [] := rfl

/-- What falls due at a tick of a STOPPED counter: the expiry and the completed filter. -/
theorem dueAtTick_stopped {s : State} (h : s.timebase.running = false) :
    s.dueAtTick = (if s.advance.stallDue then [Due.stallExpiry] else []) ++
      (if s.advance.filterDue then [Due.filterComplete] else []) := by
  unfold State.dueAtTick
  dsimp only
  rw [step_stopped h, deliveries_nil, List.append_nil]

end Sys2Proof.Machine

namespace Sys2Proof.Proofs

open Sys2Proof.Machine

/-- Settles O22: a tick leaves the timebase that the step leaves, and the step goes case by case. -/
theorem tickStepsTheCounter : Obligations.TickStepsTheCounter := by
  intro s hr
  refine ⟨_, exec_tick hr, ?_⟩
  rw [tickFirst_timebase]
  refine ⟨fun h => ?_, fun h hm hc => ?_, fun h hm hc => ?_, fun h hm hd => ?_, fun h hm hd hc => ?_,
    fun h hm hd hc => ?_, fun h hm => ?_⟩
  · rw [step_stopped h]
  · rw [step_up_climbs h hm hc]
  · rw [step_up_wraps h hm hc]
    rfl
  · rw [step_updown_climbs h hm hd]
  · rw [step_updown_descends h hm hd hc]
  · rw [step_updown_lands h hm hd hc]
    rfl
  · rw [step_oneshot h hm]

/-- Settles O23: nothing falls due, so the tick is its counts. -/
theorem quietTickAgesCounts : Obligations.QuietTickAgesCounts := by
  intro s hr hrun hstall hfilter
  have due : s.dueAtTick = [] := by
    have filter : s.advance.filterDue = false := by
      rw [advance_filterDue_eq]
      by_cases h : s.hold.state = .filtering
      · rw [decide_eq_false (Nat.not_le.2 (hfilter h)), Bool.and_false]
      · rw [decide_eq_false h, Bool.false_and]
    rw [dueAtTick_stopped hrun, advance_stallDue_eq_false hstall, filter]
    rfl
  have hold : s.hold.ticked =
      { s.hold with counter := if s.hold.state = .filtering then s.hold.counter + 1 else s.hold.counter } := by
    unfold Hold.ticked
    split <;> rfl
  rw [exec_tick hr]
  unfold State.tickFirst
  rw [due, applyAll_nil]
  unfold State.advance
  rw [hold, step_stopped hrun]
  rfl

/-- Settles O24: the named ticks, the events of each step with their stamp, and the current timestamp. -/
theorem namedTicksStepTheCounter : Obligations.NamedTicksStepTheCounter := by
  refine ⟨fun s tb wrapped hr htb hrun hw => ?named, fun tb => ?events, fun s => rfl⟩
  case named =>
    subst htb hw
    refine ⟨fun hm hc hl => ?_, fun hm hl => ?_, fun h => ?_, fun hm hd hl => ?_, fun hm hc hl => ?_,
      fun hm hc h0 => ?_, fun hm hd hl => ?_, fun hm hl => ?_, fun hm hd hc hl => ?_, fun hm hd hc h0 => ?_⟩
    · refine ⟨_, rfl, tickOf_timebase hr ?_ ?_⟩ <;> rw [step_up_climbs hrun hm hc] <;> simp [mem_eventIf, hl]
    · refine ⟨_, rfl, tickOf_timebase hr ?_ ?_⟩ <;> rw [step_oneshot hrun hm] <;> simp [mem_eventIf, hl]
    · rcases h with ⟨hm, hc⟩ | ⟨hm, hd, hc⟩
      · refine ⟨_, rfl, tickOf_timebase hr ?_ ?_⟩ <;> rw [step_up_wraps hrun hm hc]
        · exact List.mem_cons_self
        · rfl
      · refine ⟨_, rfl, tickOf_timebase hr ?_ ?_⟩ <;> rw [step_updown_lands hrun hm hd hc]
        · exact List.mem_cons_self
        · rfl
    · refine ⟨_, rfl, tickOf_timebase hr ?_ ?_⟩ <;> rw [step_updown_climbs hrun hm hd] <;> simp [mem_eventIf, hl]
    · refine ⟨_, rfl, tickOf_timebase hr ?_ ?_⟩ <;> rw [step_up_climbs hrun hm hc] <;> simp [mem_eventIf, hl]
    · refine ⟨_, rfl, tickOf_timebase hr ?_ ?_⟩ <;> rw [step_up_wraps hrun hm hc]
      · simp [mem_eventIf, h0]
      · rfl
    · refine ⟨_, rfl, tickOf_timebase hr ?_ ?_⟩ <;> rw [step_updown_climbs hrun hm hd] <;> simp [mem_eventIf, hl]
    · refine ⟨_, rfl, tickOf_timebase hr ?_ ?_⟩ <;> rw [step_oneshot hrun hm] <;> simp [mem_eventIf, hl]
    · refine ⟨_, rfl, tickOf_timebase hr ?_ ?_⟩ <;> rw [step_updown_descends hrun hm hd hc] <;> simp [mem_eventIf, hl]
    · refine ⟨_, rfl, tickOf_timebase hr ?_ ?_⟩ <;> rw [step_updown_lands hrun hm hd hc]
      · simp [mem_eventIf, h0]
      · rfl
  case events =>
    refine ⟨?nodup, fun h => ?_, fun h hm hc => ?_, fun h hm hc => ?_, fun h hm hd => ?_, fun h hm hd hc => ?_,
      fun h hm hd hc => ?_, fun h hm => ?_⟩
    case nodup =>
      obtain ⟨e, he, h⟩ := stepEvents_cases tb
      rw [h]
      fin_cases he <;> decide
    · rw [step_stopped h]
    · rw [step_up_climbs h hm hc]
      exact ⟨fun e => by simp [mem_eventIf], rfl⟩
    · rw [step_up_wraps h hm hc]
      exact ⟨fun e => by simp [mem_eventIf], rfl⟩
    · rw [step_updown_climbs h hm hd]
      exact ⟨fun e => by simp [mem_eventIf], rfl⟩
    · rw [step_updown_descends h hm hd hc]
      exact ⟨fun e => by simp [mem_eventIf], rfl⟩
    · rw [step_updown_lands h hm hd hc]
      exact ⟨fun e => by simp [mem_eventIf], rfl⟩
    · rw [step_oneshot h hm]
      exact ⟨fun e => by simp [mem_eventIf], rfl⟩

end Sys2Proof.Proofs

/-! The delivery of events (O25 to O27, O29): whatever the order, the deliveries of a tick or an edge count one event
for each group they match, or suppress it, and one alone at the divider makes a TRIGGER request. -/

namespace Sys2Proof.Machine

/-! ### The deliveries -/

/-- A delivery to the group. -/
def Due.isFor (g : GroupId) : Due → Bool
  | .deliver h _ _ => decide (h = g)
  | _ => false

/-- A list of deliveries alone. -/
def AllDeliver (l : List Due) : Prop := ∀ d ∈ l, ∃ (g : GroupId) (e : TbEvent) (ts : Stamp), d = .deliver g e ts

theorem deliveries_allDeliver (s : State) (evs : List TbEvent) (ts : Stamp) : AllDeliver (s.deliveries evs ts) := by
  intro d hd
  obtain ⟨g, -, h⟩ := List.mem_flatMap.1 hd
  obtain ⟨e, -, rfl⟩ := List.mem_map.1 h
  exact ⟨g, e, ts, rfl⟩

/-- The deliveries of one group, among those of all. -/
theorem countP_flatMap_allGroups (f : GroupId → List TbEvent) (ts : Stamp) (g : GroupId) :
    (allGroups.flatMap fun h => (f h).map fun e => Due.deliver h e ts).countP (Due.isFor g) = (f g).length := by
  have own : ∀ h : GroupId, ((f h).map fun e => Due.deliver h e ts).countP (Due.isFor g) =
      if h = g then (f h).length else 0 := by
    intro h
    by_cases e : h = g <;> simp [List.countP_map, Function.comp_def, Due.isFor, e]
  simp only [allGroups, List.flatMap_cons, List.flatMap_nil, List.countP_append, List.append_nil, own]
  fin_cases g <;> simp

theorem countP_deliveries (s : State) (evs : List TbEvent) (ts : Stamp) (g : GroupId) :
    (s.deliveries evs ts).countP (Due.isFor g) = (evs.filter fun e => s.groups[g].source.matches e).length :=
  countP_flatMap_allGroups _ ts g

/-- With one group that matches, the deliveries are that group's. -/
theorem deliveries_of_one {s : State} {evs : List TbEvent} {g : GroupId}
    (h : ∀ k : GroupId, k ≠ g → ∀ e ∈ evs, s.groups[k].source.matches e = false) (ts : Stamp) :
    s.deliveries evs ts = (evs.filter fun e => s.groups[g].source.matches e).map fun e => .deliver g e ts := by
  have silent : ∀ k : GroupId, k ≠ g → (evs.filter fun e => s.groups[k].source.matches e) = [] := by
    intro k hk
    rw [List.filter_eq_nil_iff]
    intro e he
    rw [h k hk e he]
    exact Bool.false_ne_true
  have all : ∀ k ∈ allGroups, ((evs.filter fun e => s.groups[k].source.matches e).map fun e => Due.deliver k e ts) =
      if k = g then (evs.filter fun e => s.groups[g].source.matches e).map fun e => Due.deliver g e ts else [] := by
    intro k _
    by_cases hk : k = g
    · rw [if_pos hk, hk]
    · rw [if_neg hk, silent k hk]
      rfl
  have alone : ∀ l : List Due, (allGroups.flatMap fun k => if k = g then l else []) = l := by
    intro l
    simp only [allGroups, List.flatMap_cons, List.flatMap_nil, List.append_nil]
    fin_cases g <;> simp
  exact (List.flatMap_congr all).trans (alone _)

/-- How many events a source takes of a list that never doubles a match. -/
def Single (evs : List TbEvent) : Prop :=
  ∀ src : Source, (evs.filter fun e => src.matches e).length = if evs.any fun e => src.matches e then 1 else 0

theorem step_single (t : Timebase) : Single t.step.events := stepEvents_filter t

theorem sync_single : Single [.sync] := by
  intro src
  cases src <;> rfl

theorem syncZero_single : Single [.sync, .zero] := by
  intro src
  cases src <;> rfl

/-- The one delivery of the one group that matches. -/
theorem deliveries_single {s : State} {evs : List TbEvent} {g : GroupId} (hs : Single evs)
    (hm : ∃ e ∈ evs, s.groups[g].source.matches e = true)
    (h : ∀ k : GroupId, k ≠ g → ∀ e ∈ evs, s.groups[k].source.matches e = false) (ts : Stamp) :
    ∃ e, s.deliveries evs ts = [.deliver g e ts] := by
  have one := hs s.groups[g].source
  rw [if_pos (List.any_eq_true.2 hm)] at one
  obtain ⟨e, he⟩ := List.length_eq_one_iff.1 one
  exact ⟨e, by rw [deliveries_of_one h, he]; rfl⟩

/-! ### Counting (R69) -/

/-- The state with the groups' divider counts raised. -/
def State.countedBy (s : State) (k : GroupId → Nat) : State :=
  { s with groups := Vector.ofFn fun g => { s.groups[g] with dividerCount := s.groups[g].dividerCount + k g } }

theorem countedBy_get (s : State) (k : GroupId → Nat) (g : GroupId) :
    (s.countedBy k).groups[g] = { s.groups[g] with dividerCount := s.groups[g].dividerCount + k g } := by
  simp [State.countedBy]

theorem countedBy_congr {s t : State} {k m : GroupId → Nat} (ht : t = { s with groups := t.groups })
    (h : ∀ g : GroupId, { t.groups[g] with dividerCount := t.groups[g].dividerCount + k g } =
      ({ s.groups[g] with dividerCount := s.groups[g].dividerCount + m g } : Group)) :
    t.countedBy k = s.countedBy m := by
  have groups : (t.countedBy k).groups = (s.countedBy m).groups :=
    vector_ext fun g => by rw [countedBy_get, countedBy_get, h g]
  obtain ⟨v, rfl⟩ : ∃ v, t = { s with groups := v } := ⟨_, ht⟩
  exact congrArg (fun v => ({ s with groups := v } : State)) groups

theorem countedBy_zero (s : State) : s.countedBy (fun _ => 0) = s := by
  have groups : (s.countedBy fun _ => 0).groups = s.groups := vector_ext fun g => by rw [countedBy_get]; rfl
  exact congrArg (fun v => ({ s with groups := v } : State)) groups

theorem countedBy_countedBy (s : State) (k m : GroupId → Nat) :
    (s.countedBy k).countedBy m = s.countedBy fun g => k g + m g :=
  countedBy_congr rfl fun g => by rw [countedBy_get, Nat.add_assoc]

theorem deliver_counts {s : State} {g : GroupId} (ts : Stamp) (hh : s.hold.state ≠ .held) (hq : s.quiescing = false)
    (hd : s.groups[g].dividerCount + 1 ≠ s.groups[g].divider) :
    s.deliver g ts = s.countedBy fun k => if k = g then 1 else 0 := by
  have awake : (s.held || s.quiescing) = false := by
    rw [hq]
    simpa [State.held] using hh
  have counted : s.deliver g ts = s.modGroup g fun r => { r with dividerCount := r.dividerCount + 1 } := by
    unfold State.deliver
    rw [awake]
    exact if_neg hd
  rw [counted, ← countedBy_zero (s.modGroup g _)]
  refine countedBy_congr rfl fun k => ?_
  by_cases h : k = g
  · rw [modGroup_get, if_pos h, if_pos h, h]
  · rw [modGroup_get, if_neg h, if_neg h]

/-- Deliveries below the dividers count, each at its group (R69). -/
theorem foldl_counts {l : List Due} (hl : AllDeliver l) {s : State} (hh : s.hold.state ≠ .held)
    (hq : s.quiescing = false)
    (hd : ∀ g : GroupId, 0 < l.countP (Due.isFor g) →
      s.groups[g].dividerCount + l.countP (Due.isFor g) < s.groups[g].divider) :
    l.foldl State.applyDue s = s.countedBy fun g => l.countP (Due.isFor g) := by
  induction l generalizing s with
  | nil => exact (countedBy_zero s).symm
  | cons d l ih =>
    obtain ⟨g, e, ts, rfl⟩ := hl d List.mem_cons_self
    have count : ∀ k : GroupId, (Due.deliver g e ts :: l).countP (Due.isFor k) =
        (if k = g then 1 else 0) + l.countP (Due.isFor k) := by
      intro k
      rw [List.countP_cons, Nat.add_comm]
      by_cases h : k = g
      · simp [Due.isFor, h]
      · simp [Due.isFor, h, Ne.symm h]
    have below : s.groups[g].dividerCount + 1 ≠ s.groups[g].divider := by
      have := hd g (by rw [count, if_pos rfl]; omega)
      rw [count, if_pos rfl] at this
      omega
    rw [List.foldl_cons]
    have first : s.applyDue (.deliver g e ts) = s.countedBy fun k => if k = g then 1 else 0 :=
      deliver_counts ts hh hq below
    rw [first, ih (fun d hd => hl d (List.mem_cons_of_mem _ hd)) (s := s.countedBy fun k => if k = g then 1 else 0)
      hh hq fun k hk => ?_, countedBy_countedBy]
    · congr 1
      funext k
      exact (count k).symm
    · have := hd k (by rw [count]; omega)
      rw [count] at this
      rw [countedBy_get]
      show s.groups[k].dividerCount + (if k = g then 1 else 0) + _ < s.groups[k].divider
      omega

/-- A tick's or an edge's deliveries below the dividers, in whatever order (R69, log 2). -/
theorem applyAll_counts {l : List Due} (hl : AllDeliver l) {s : State} (first : Due → Bool)
    (hh : s.hold.state ≠ .held) (hq : s.quiescing = false)
    (hd : ∀ g : GroupId, 0 < l.countP (Due.isFor g) →
      s.groups[g].dividerCount + l.countP (Due.isFor g) < s.groups[g].divider) :
    ∃ n, s.applyAll first l = { s.countedBy fun g => l.countP (Due.isFor g) with draws := n } := by
  obtain ⟨a, b, m, n, perm, run⟩ := applyAll_foldl s first l
  have count : ∀ g : GroupId, l.countP (Due.isFor g) = a.countP (Due.isFor g) + b.countP (Due.isFor g) := by
    intro g
    rw [← List.countP_append]
    exact (perm.countP_eq _).symm
  have mem : ∀ d, d ∈ a ∨ d ∈ b → d ∈ l := fun d h => perm.mem_iff.1 (List.mem_append.2 h)
  have firstHalf : a.foldl State.applyDue (s.drew m) = (s.drew m).countedBy fun g => a.countP (Due.isFor g) := by
    refine foldl_counts (fun d h => hl d (mem d (.inl h))) hh hq fun g hg => ?_
    have := hd g (by rw [count]; omega)
    rw [count] at this
    show s.groups[g].dividerCount + _ < s.groups[g].divider
    omega
  rw [firstHalf] at run
  rw [foldl_counts (fun d h => hl d (mem d (.inr h)))
    (s := ((s.drew m).countedBy fun g => a.countP (Due.isFor g)).drew n) hh hq fun g hg => ?_] at run
  · refine ⟨((s.drew m).drew n).draws, run.trans ?_⟩
    have both := countedBy_countedBy s (fun g => a.countP (Due.isFor g)) fun g => b.countP (Due.isFor g)
    simp only [← count] at both
    exact congrArg (fun x : State => { x with draws := ((s.drew m).drew n).draws }) both
  · have := hd g (by rw [count]; omega)
    rw [count] at this
    rw [show (State.drew ((s.drew m).countedBy fun g => a.countP (Due.isFor g)) n).groups[g] =
      ((s.drew m).countedBy fun g => a.countP (Due.isFor g)).groups[g] from rfl, countedBy_get]
    show s.groups[g].dividerCount + a.countP (Due.isFor g) + _ < s.groups[g].divider
    omega

/-! ### Suppression (R71, R129) -/

/-- A saturating count after n raises by one. -/
def raisedBy (a n : Nat) : Nat := if n = 0 then a else min 65535 (a + n)

theorem raisedBy_one (a : Nat) : raisedBy a 1 = satAdd a 1 := rfl

theorem raisedBy_raisedBy (a m n : Nat) : raisedBy (raisedBy a m) n = raisedBy a (m + n) := by
  unfold raisedBy
  split <;> split <;> split <;> omega

theorem raisedBy_of_le {a : Nat} (h : a ≤ 65535) (n : Nat) : raisedBy a n = min 65535 (a + n) := by
  unfold raisedBy
  split <;> omega

/-- What suppressed events leave of s: k at each group, n in all. -/
structure SuppressLeaves (s t : State) (k : GroupId → Nat) (n : Nat) : Prop where
  pool : t.pool = s.pool
  regions : t.regions = s.regions
  groups : t.groups = s.groups
  log : t.log = s.log
  flags : t.events.flags = s.events.flags
  ready : t.ready = s.ready
  quiescing : t.quiescing = s.quiescing
  counter : ∀ g : GroupId, t.counter (.suppressed g) = raisedBy (s.counter (.suppressed g)) (k g)
  held : s.hold.state = .held → t.hold = { s.hold with suppressed := raisedBy s.hold.suppressed n }
  free : s.hold.state ≠ .held → t.hold = s.hold

theorem SuppressLeaves.drew (s : State) (m : Nat) : SuppressLeaves s (s.drew m) (fun _ => 0) 0 :=
  ⟨rfl, rfl, rfl, rfl, rfl, rfl, rfl, fun _ => rfl, fun _ => rfl, fun _ => rfl⟩

theorem SuppressLeaves.state {s t : State} {k : GroupId → Nat} {n : Nat} (h : SuppressLeaves s t k n) :
    t.hold.state = s.hold.state := by
  by_cases hs : s.hold.state = .held
  · rw [h.held hs]
  · rw [h.free hs]

theorem SuppressLeaves.trans {s t u : State} {k l : GroupId → Nat} {m n : Nat} (h : SuppressLeaves s t k m)
    (i : SuppressLeaves t u l n) : SuppressLeaves s u (fun g => k g + l g) (m + n) where
  pool := i.pool.trans h.pool
  regions := i.regions.trans h.regions
  groups := i.groups.trans h.groups
  log := i.log.trans h.log
  flags := i.flags.trans h.flags
  ready := i.ready.trans h.ready
  quiescing := i.quiescing.trans h.quiescing
  counter g := by rw [i.counter, h.counter, raisedBy_raisedBy]
  held hs := by rw [i.held (h.state.trans hs), h.held hs, raisedBy_raisedBy]
  free hs := by rw [i.free (by rw [h.state]; exact hs), h.free hs]

theorem deliver_suppresses {s : State} (g : GroupId) (ts : Stamp) (h : s.hold.state = .held ∨ s.quiescing = true) :
    SuppressLeaves s (s.deliver g ts) (fun k => if k = g then 1 else 0) 1 := by
  have asleep : (s.held || s.quiescing) = true := by
    rcases h with h | h <;> simp [State.held, h]
  have count : ∀ (hold : Hold) (k : GroupId), ({ s.bump (.suppressed g) 1 with hold := hold } : State).counter
      (.suppressed k) = raisedBy (s.counter (.suppressed k)) (if k = g then 1 else 0) := by
    intro hold k
    refine (counter_bump s (.suppressed g) (.suppressed k) 1).trans ?_
    by_cases hk : k = g
    · rw [if_pos hk, if_pos (by rw [hk]), raisedBy_one, hk]
    · rw [if_neg hk, if_neg fun e => hk (Counter.suppressed.inj e)]
      rfl
  unfold State.deliver
  rw [if_pos asleep]
  dsimp only
  by_cases hs : s.hold.state = .held
  · rw [if_pos (by simp [State.held, hs])]
    exact ⟨rfl, rfl, rfl, rfl, rfl, rfl, rfl, count _, fun _ => rfl, fun k => absurd hs k⟩
  · rw [if_neg (by simp [State.held, hs])]
    exact ⟨rfl, rfl, rfl, rfl, rfl, rfl, rfl, count _, fun k => absurd k hs, fun _ => rfl⟩

theorem countP_cons_deliver (g k : GroupId) (e : TbEvent) (ts : Stamp) (l : List Due) :
    (Due.deliver g e ts :: l).countP (Due.isFor k) = (if k = g then 1 else 0) + l.countP (Due.isFor k) := by
  rw [List.countP_cons, Nat.add_comm]
  by_cases h : k = g
  · simp [Due.isFor, h]
  · simp [Due.isFor, h, Ne.symm h]

theorem foldl_suppresses {l : List Due} (hl : AllDeliver l) {s : State} (h : s.hold.state = .held ∨ s.quiescing = true) :
    SuppressLeaves s (l.foldl State.applyDue s) (fun g => l.countP (Due.isFor g)) l.length := by
  induction l generalizing s with
  | nil => exact SuppressLeaves.drew s 0
  | cons d l ih =>
    obtain ⟨g, e, ts, rfl⟩ := hl d List.mem_cons_self
    have one := deliver_suppresses g ts h
    have rest := ih (fun d hd => hl d (List.mem_cons_of_mem _ hd)) (s := s.deliver g ts)
      (h.imp (fun k => one.state.trans k) fun k => one.quiescing.trans k)
    have both := one.trans rest
    rw [List.length_cons, Nat.add_comm]
    simp only [countP_cons_deliver]
    exact both

theorem applyAll_suppresses {l : List Due} (hl : AllDeliver l) {s : State} (first : Due → Bool)
    (h : s.hold.state = .held ∨ s.quiescing = true) :
    SuppressLeaves s (s.applyAll first l) (fun g => l.countP (Due.isFor g)) l.length := by
  obtain ⟨a, b, m, n, perm, run⟩ := applyAll_foldl s first l
  have mem : ∀ d, d ∈ a ∨ d ∈ b → d ∈ l := fun d h => perm.mem_iff.1 (List.mem_append.2 h)
  have start := SuppressLeaves.drew s m
  have one := start.trans (foldl_suppresses (fun d h => hl d (mem d (.inl h))) (s := s.drew m) h)
  have two := one.trans (SuppressLeaves.drew _ n)
  have all := two.trans (foldl_suppresses (fun d h => hl d (mem d (.inr h)))
    (h.imp (fun k => two.state.trans k) fun k => two.quiescing.trans k))
  rw [run]
  have count : ∀ g : GroupId, l.countP (Due.isFor g) =
      0 + a.countP (Due.isFor g) + 0 + b.countP (Due.isFor g) := by
    intro g
    rw [← perm.countP_eq, List.countP_append]
    omega
  have length : l.length = 0 + a.length + 0 + b.length := by
    rw [← perm.length_eq, List.length_append]
    omega
  rw [length]
  simp only [count]
  exact all

/-- The deliveries in all, when no source takes two events. -/
theorem length_deliveries {s : State} {evs : List TbEvent} (hs : Single evs) (ts : Stamp) :
    (s.deliveries evs ts).length = ([0, 1, 2, 3] : List GroupId).countP fun g =>
      evs.any fun e => s.groups[g].source.matches e := by
  have one : ∀ g : GroupId, (evs.filter fun e => s.groups[g].source.matches e).length =
      if evs.any fun e => s.groups[g].source.matches e then 1 else 0 := fun g => hs s.groups[g].source
  unfold State.deliveries allGroups
  simp only [List.flatMap_cons, List.flatMap_nil, List.append_nil, List.length_append, List.length_map,
    List.countP_cons, List.countP_nil]
  rw [one, one, one, one]
  omega

theorem countP_single {s : State} {evs : List TbEvent} (hs : Single evs) (ts : Stamp) (g : GroupId) :
    (s.deliveries evs ts).countP (Due.isFor g) = if evs.any fun e => s.groups[g].source.matches e then 1 else 0 := by
  rw [countP_deliveries, hs]

/-! ### The trigger request of the one group at its divider (R69, R72, R73) -/

/-- What an overrun of the group's occupied slot leaves of s (R73, R85). -/
structure OverrunLeaves (s t : State) (g : GroupId) (ts : Stamp) (sl : SealedSlot) : Prop where
  pool : t.pool = s.pool
  groups : t.groups = s.groups
  regions : t.regions = s.regions
  ready : t.ready = s.ready
  nextIssue : t.nextIssue = s.nextIssue
  log : t.log = (s.logRecord g ts (.overrun sl.gen sl.phase)).log
  counter : t.counter (.overruns g) = satAdd (s.counter (.overruns g)) 1
  flag : t.flagSet (.overrun g) = true

theorem triggerRequest_overruns {s : State} {g : GroupId} {sl : SealedSlot} (ts : Stamp)
    (h : s.groups[g].slot = some sl) : OverrunLeaves s (s.triggerRequest g ts) g ts sl := by
  have taken : s.triggerRequest g ts =
      ((s.bump (.overruns g) 1).raise (.overrun g)).logRecord g ts (.overrun sl.gen sl.phase) := by
    unfold State.triggerRequest
    rw [h]
  have counter : (s.triggerRequest g ts).counter (.overruns g) = satAdd (s.counter (.overruns g)) 1 := by
    rw [taken, counter_logRecord_ne _ _ _ _ (c := .overruns g) (nofun), counter_raise, counter_bump_self]
  have flag : (s.triggerRequest g ts).flagSet (.overrun g) = true := by
    rw [taken, flagSet_logRecord_ne _ _ _ _ (f := .overrun g) (nofun) (nofun), flagSet_raise_self]
  have log : (s.triggerRequest g ts).log = (s.logRecord g ts (.overrun sl.gen sl.phase)).log := by
    rw [taken]
    exact logRecord_log_congr (s := s) (t := (s.bump (.overruns g) 1).raise (.overrun g)) rfl _ _ _
  have frame := logRecord_eq ((s.bump (.overruns g) 1).raise (.overrun g)) g ts (.overrun sl.gen sl.phase)
  rw [← taken] at frame
  refine ⟨?_, ?_, ?_, ?_, ?_, log, counter, flag⟩ <;> rw [frame] <;> rfl

theorem triggerRequest_seals {s : State} {g : GroupId} (ts : Stamp) (h : s.groups[g].slot = none) :
    s.triggerRequest g ts = s.sealFull g .trigger ts := by
  unfold State.triggerRequest
  rw [h]

theorem deliver_at_divider {s : State} {g : GroupId} (ts : Stamp) (hh : s.hold.state ≠ .held) (hq : s.quiescing = false)
    (hd : s.groups[g].dividerCount + 1 = s.groups[g].divider) :
    s.deliver g ts = (s.modGroup g fun r => { r with dividerCount := 0 }).triggerRequest g ts := by
  have awake : (s.held || s.quiescing) = false := by
    rw [hq]
    simpa [State.held] using hh
  unfold State.deliver
  rw [awake]
  exact if_pos hd

theorem logRecord_withTimebase_log (s : State) (tb : Timebase) (i : Fin 4) (ts : Stamp) (b : LogBody) :
    (({ s with timebase := tb } : State).logRecord i ts b).log = (s.logRecord i ts b).log :=
  logRecord_log_congr (s := s) (t := { s with timebase := tb }) rfl i ts b

/-- The timebase says nothing of an empty seal. -/
theorem EmptySealLeaves.of_timebase {s t : State} {g : GroupId} {c : SealCause} {ts : Stamp} (tb : Timebase)
    (h : EmptySealLeaves { s with timebase := tb } t g c ts) : EmptySealLeaves s t g c ts where
  group := h.group
  others := h.others
  pool := h.pool
  regions := h.regions
  forwardQueue := h.forwardQueue
  outstanding := h.outstanding
  tracker := h.tracker
  ready := h.ready
  nextIssue := h.nextIssue
  seals := h.seals
  done := h.done
  log := h.log.trans (logRecord_log_congr (logRecord_withTimebase_log s tb g ts _) _ _ _)
  hold := h.hold
  channel := h.channel
  lastGrant := h.lastGrant
  drainTags := h.drainTags

/-- One event at the divider of the one group that matches it: u is the state that seals or overruns, but for the
timebase (R69, R72, R73). -/
structure Triggers (u t : State) (g : GroupId) (ts : Stamp) : Prop where
  seals : u.groups[g].slot = none → 0 < u.openCount g → SealLeaves u t g .trigger ts ∧
    t.pool = u.pool.map fun e =>
      if e.group = g ∧ e.role = .opened then { e with role := .sealed, issued := false } else e
  completes : u.groups[g].slot = none → u.openCount g = 0 → u.groups[g].pendingRetire = false →
    EmptySealLeaves u t g .trigger ts
  overruns : ∀ sl, u.groups[g].slot = some sl → OverrunLeaves u t g ts sl

theorem triggerRequest_triggers {u v : State} (hv : v = { u with timebase := v.timebase }) (g : GroupId) (ts : Stamp)
    (hst : u.stall = none) (hq : u.quiescing = false) : Triggers u (v.triggerRequest g ts) g ts := by
  obtain ⟨tb, rfl⟩ : ∃ tb, v = { u with timebase := tb } := ⟨_, hv⟩
  refine ⟨fun hn hopen => ?_, fun hn hopen hp => ?_, fun sl hsl => ?_⟩
  · rw [triggerRequest_seals (s := { u with timebase := tb }) ts hn,
      sealFull_of_entries (s := { u with timebase := tb }) .trigger ts hopen hst]
    refine ⟨(sealGroup_leaves (s := { u with timebase := tb }) .trigger ts hopen hq).congr_left
      rfl rfl rfl rfl rfl rfl rfl rfl rfl rfl rfl rfl rfl rfl, ?_⟩
    rw [sealGroup_eq]
    exact takeSeal_pool _ _ _
  · rw [triggerRequest_seals (s := { u with timebase := tb }) ts hn]
    exact (sealFull_leaves_empty (s := { u with timebase := tb }) ts hopen hst (.inr hp) hq).of_timebase tb
  · have run := triggerRequest_overruns (s := { u with timebase := tb }) ts hsl
    exact ⟨run.pool, run.groups, run.regions, run.ready, run.nextIssue,
      run.log.trans (logRecord_withTimebase_log u tb g ts _), run.counter, run.flag⟩

/-! ### The deliveries of a tick -/

theorem deliveries_advance (s : State) (evs : List TbEvent) (ts : Stamp) :
    s.advance.deliveries evs ts = s.deliveries evs ts := by
  unfold State.deliveries
  simp only [advance_group]
  rfl

/-- What falls due at a tick with no write stalled and no filter running. -/
theorem dueAtTick_delivers {s : State} (hf : s.hold.state ≠ .filtering) (hst : s.stall = none) :
    s.dueAtTick = s.deliveries s.timebase.step.events s.timebase.step.stamp := by
  have stall : s.advance.stallDue = false := advance_stallDue_eq_false fun w hw => by rw [hst] at hw; nomatch hw
  have filter : s.advance.filterDue = false := by rw [advance_filterDue_eq, decide_eq_false hf, Bool.false_and]
  unfold State.dueAtTick
  dsimp only
  rw [stall, filter, deliveries_advance]
  rfl

/-- A tick, or the tick that goes by the name of an event of its step. -/
theorem exec_tick_row {s : State} {c : Instr} (hr : s.inReset = false)
    (h : c = .tick ∨ ∃ k ∈ s.timebase.step.events, (c, k) ∈
      ([(.limit, .limit), (.zero, .zero), (.peak, .peak), (.markUp, .markUp), (.markDown, .markDown)] :
        List (Instr × TbEvent))) : ∃ first, exec c s = .next (s.tickFirst first) := by
  rcases h with rfl | ⟨k, hk, hc⟩
  · exact ⟨_, exec_tick hr⟩
  · simp only [List.mem_cons, Prod.mk.injEq, List.not_mem_nil, or_false] at hc
    rcases hc with ⟨rfl, rfl⟩ | ⟨rfl, rfl⟩ | ⟨rfl, rfl⟩ | ⟨rfl, rfl⟩ | ⟨rfl, rfl⟩ <;>
      exact ⟨_, congrArg Host.Outcome.next (tickOf_of_event hr hk)⟩

/-- The groups whose source matches an event of the list. -/
theorem matches_of_count {s : State} {evs : List TbEvent} {g : GroupId}
    (h : 0 < if evs.any fun e => s.groups[g].source.matches e then 1 else 0) :
    ∃ e ∈ evs, s.groups[g].source.matches e = true := by
  split at h
  · rename_i k
    exact List.any_eq_true.1 k
  · omega

/-! ### The deliveries of a SYNC edge (R61) -/

/-- The state that a SYNC edge delivers its events from: at a restart, ZERO among them, with the count restarted. -/
def State.synced (s : State) (evs : List TbEvent) : State :=
  if .zero ∈ evs then { s with timebase := s.timebase.zeroed } else s

theorem synced_eq (s : State) (evs : List TbEvent) :
    s.synced evs = { s with timebase := (s.synced evs).timebase } := by
  unfold State.synced
  split <;> rfl

theorem exec_syncArrival {s : State} {evs : List TbEvent} (hr : s.inReset = false)
    (h : (evs = [.sync] ∧
        (s.timebase.syncMode = .event ∨ (s.timebase.syncMode = .restart ∧ s.timebase.running = false))) ∨
      (evs = [.sync, .zero] ∧ s.timebase.syncMode = .restart ∧ s.timebase.running = true)) :
    exec .syncArrival s = .next ((s.synced evs).applyAll (fun _ => false) (s.deliveries evs (s.synced evs).now)) := by
  have arrival : exec .syncArrival s = execSyncArrival s := rfl
  rw [arrival]
  unfold execSyncArrival
  rw [hr]
  rcases h with ⟨rfl, hm | ⟨hm, hrun⟩⟩ | ⟨rfl, hm, hrun⟩
  · rw [hm]
    rfl
  · rw [hm, hrun]
    rfl
  · rw [hm, hrun]
    rfl

theorem single_of_sync {s : State} {evs : List TbEvent}
    (h : (evs = [.sync] ∧
        (s.timebase.syncMode = .event ∨ (s.timebase.syncMode = .restart ∧ s.timebase.running = false))) ∨
      (evs = [.sync, .zero] ∧ s.timebase.syncMode = .restart ∧ s.timebase.running = true)) : Single evs := by
  rcases h with ⟨rfl, -⟩ | ⟨rfl, -⟩
  · exact sync_single
  · exact syncZero_single

end Sys2Proof.Machine

namespace Sys2Proof.Proofs

open Sys2Proof.Machine

/-- Settles O25: what each source matches, and the deliveries of a tick below the dividers. -/
theorem deliveredEventsCounted : Obligations.DeliveredEventsCounted := by
  refine ⟨fun e => by cases e <;> decide, fun s c hr hh hq hst hc hd => ?_⟩
  have calm : s.hold.state ≠ .filtering := by rw [hh]; nofun
  have hold : s.advance.hold = s.hold := ticked_of_not_filtering calm
  obtain ⟨first, run⟩ := exec_tick_row hr hc
  have count := fun g => countP_single (s := s) (step_single s.timebase) s.timebase.step.stamp g
  have awake : s.advance.hold.state ≠ .held := by rw [hold, hh]; nofun
  have below : ∀ g : GroupId, 0 < (s.deliveries s.timebase.step.events s.timebase.step.stamp).countP (Due.isFor g) →
      s.advance.groups[g].dividerCount +
        (s.deliveries s.timebase.step.events s.timebase.step.stamp).countP (Due.isFor g) <
        s.advance.groups[g].divider := by
    intro g hg
    have small := hd g (matches_of_count (count g ▸ hg))
    have one : (s.deliveries s.timebase.step.events s.timebase.step.stamp).countP (Due.isFor g) ≤ 1 := by
      rw [count]
      split <;> omega
    rw [advance_group]
    show s.groups[g].dividerCount + _ < s.groups[g].divider
    omega
  obtain ⟨n, applied⟩ := applyAll_counts (deliveries_allDeliver s _ _) first awake hq below
  refine ⟨_, run, ?_⟩
  unfold State.tickFirst
  rw [dueAtTick_delivers calm hst, applied]
  refine ⟨rfl, rfl, rfl, rfl, hold, rfl, rfl, fun g => ?_⟩
  refine (countedBy_get s.advance _ g).trans ?_
  rw [advance_group, count]
  split <;> rfl

/-- Settles O26: the deliveries of a tick while HELD or quiescing. -/
theorem suppressedEventsCounted : Obligations.SuppressedEventsCounted := by
  intro s hr hf hst hs
  have hold : s.advance.hold = s.hold := ticked_of_not_filtering hf
  have left := applyAll_suppresses (deliveries_allDeliver s s.timebase.step.events s.timebase.step.stamp)
    (s := s.advance) (fun _ => false) (by rw [hold]; exact hs)
  rw [← dueAtTick_delivers hf hst] at left
  refine ⟨_, exec_tick hr, left.pool, left.regions, left.log, left.flags, left.ready, fun g => ?_, fun g => ?_,
    fun k => ?_, fun k hk => ?_⟩
  · unfold State.tickFirst
    rw [left.groups]
    exact advance_group s g
  · refine (left.counter g).trans ?_
    rw [dueAtTick_delivers hf hst, countP_single (step_single _)]
    split <;> rfl
  · exact (left.free (by rw [hold]; exact k)).trans hold
  · refine (left.held (by rw [hold]; exact k)).trans ?_
    rw [dueAtTick_delivers hf hst, length_deliveries (step_single _), hold, raisedBy_of_le hk]

/-- Settles O27: the one delivery at the divider makes the TRIGGER request. -/
theorem triggerSealsOrOverruns : Obligations.TriggerSealsOrOverruns := by
  intro s u g hr hh hq hst hm hothers hd hu
  have calm : s.hold.state ≠ .filtering := by rw [hh]; nofun
  have hold : s.advance.hold = s.hold := ticked_of_not_filtering calm
  have awake : s.advance.hold.state ≠ .held := by rw [hold, hh]; nofun
  obtain ⟨e, one⟩ := deliveries_single (step_single s.timebase) hm hothers s.timebase.step.stamp
  have run : exec .tick s = .next (s.advance.deliver g s.timebase.step.stamp) := by
    rw [exec_tick hr]
    unfold State.tickFirst
    rw [dueAtTick_delivers calm hst, one]
    rfl
  rw [deliver_at_divider (s := s.advance) _ awake hq (by rw [advance_group]; exact hd)] at run
  have uget : ∀ k : GroupId, u.groups[k] =
      { s.groups[k] with
        dividerCount := if k = g then 0 else s.groups[k].dividerCount
        slot := s.groups[k].slot.map fun sl => { sl with elapsed := min 65535 (sl.elapsed + 1) } } := by
    intro k
    rw [hu]
    exact Vector.getElem_ofFn _
  have groups : (s.advance.modGroup g fun r => { r with dividerCount := 0 }).groups = u.groups := by
    refine vector_ext fun k => ?_
    rw [modGroup_get, uget, advance_group, advance_group]
    by_cases h : k = g
    · rw [if_pos h, if_pos h, h]
      rfl
    · rw [if_neg h, if_neg h]
      rfl
  have stall : s.advance.stall = s.stall := by
    show s.stall.map _ = s.stall
    rw [hst]
    rfl
  have same : (s.advance.modGroup g fun r => { r with dividerCount := 0 }) =
      { u with timebase := s.advance.timebase } := by
    have aged : (s.advance.modGroup g fun r => { r with dividerCount := 0 }) =
        { s with stall := s.advance.stall, groups := u.groups, hold := s.advance.hold,
                 timebase := s.advance.timebase } := by
      rw [← groups]
      rfl
    rw [aged, stall, hold, hu]
  have ustall : u.stall = none := by rw [hu]; exact hst
  have uquiet : u.quiescing = false := by rw [hu]; exact hq
  have trig := triggerRequest_triggers (u := u) (v := s.advance.modGroup g fun r => { r with dividerCount := 0 })
    same g s.timebase.step.stamp ustall uquiet
  have pool : u.pool = s.pool := by rw [hu]
  have opens : u.openCount g = s.openCount g := by unfold State.openCount; rw [pool]
  have slotOf : s.groups[g].slot = none → u.groups[g].slot = none := fun h => by rw [uget, h]; rfl
  refine ⟨fun hn hopen => ?seals, fun hn hopen hp => ?completes, fun sl hsl => ?overruns⟩
  case seals =>
    obtain ⟨L, tpool⟩ := trig.seals (slotOf hn) (by rw [opens]; exact hopen)
    obtain ⟨sl, hsl, new⟩ := L.slot
    refine ⟨_, sl, run, L, hsl, ?_, ?_, new.written, new.failed, new.elapsed, ?_, ?_, ?_, ?_⟩
    · rw [new.gen, uget]
    · rw [new.entries, opens]
    · rw [L.group, uget]
    · rw [L.group, uget]
      exact if_pos rfl
    · rw [L.seals, hu]
      rfl
    · rw [tpool, pool]
  case completes =>
    have L := trig.completes (slotOf hn) (by rw [opens]; exact hopen) (by rw [uget]; exact hp)
    refine ⟨_, run, L, ?_⟩
    rw [L.group, uget]
    exact if_pos rfl
  case overruns =>
    have slot : u.groups[g].slot = some { sl with elapsed := min 65535 (sl.elapsed + 1) } := by rw [uget, hsl]; rfl
    have L := trig.overruns _ slot
    refine ⟨_, run, L.pool.trans pool, L.groups, ?_, ?_, ?_, ?_, ?_, ?_, ?_, ?_, L.flag⟩
    · rw [L.regions, hu]
    · rw [L.ready, hu]
    · rw [L.nextIssue, hu]
    · rw [L.groups, slot]
    · rw [L.groups, uget]
    · rw [L.groups, uget]
      exact if_pos rfl
    · refine L.log.trans (logRecord_log_congr ?_ _ _ _)
      rw [hu]
    · rw [L.counter, hu]
      rfl

/-- Settles O29: the SYNC edge's deliveries, counted, suppressed, or at the divider of one group. -/
theorem syncArrivalsTaken : Obligations.SyncArrivalsTaken := by
  intro s hr
  have timebase : ∀ (p : State) (l : List Due), (p.applyAll (fun _ => false) l).timebase = p.timebase :=
    fun p l => (still_applyAll p _ l).timebase
  refine ⟨fun hm => ?ignored, fun hm => ?kept, fun hm hrun => ?restarted, fun evs hevs => ?delivered⟩
  case ignored =>
    show execSyncArrival s = _
    unfold execSyncArrival
    rw [hr, hm]
    rfl
  case kept => exact ⟨_, exec_syncArrival (evs := [.sync]) hr (.inl ⟨rfl, hm⟩), timebase _ _⟩
  case restarted =>
    exact ⟨_, exec_syncArrival (evs := [.sync, .zero]) hr (.inr ⟨rfl, hm, hrun⟩), timebase _ _⟩
  case delivered =>
    have single := single_of_sync hevs
    have run := exec_syncArrival hr hevs
    have from_ := synced_eq s evs
    generalize (s.synced evs).timebase = tb at from_
    rw [from_] at run
    clear from_
    refine ⟨fun hh hq hd => ?counted, fun hs => ?suppressed, fun g u hh hq hst hm hothers hat hu => ?triggers⟩
    case counted =>
      have count := fun g => countP_single (s := s) single (State.now { s with timebase := tb }) g
      obtain ⟨n, applied⟩ := applyAll_counts (deliveries_allDeliver s evs (State.now { s with timebase := tb }))
        (s := { s with timebase := tb }) (fun _ => false) hh hq fun g hg => by
          have small := hd g (matches_of_count (count g ▸ hg))
          have one : (s.deliveries evs (State.now { s with timebase := tb })).countP (Due.isFor g) ≤ 1 := by
            rw [count]
            split <;> omega
          show s.groups[g].dividerCount + _ < s.groups[g].divider
          omega
      refine ⟨_, run, ?_⟩
      rw [applied]
      refine ⟨rfl, rfl, rfl, fun g => ?_⟩
      refine (countedBy_get { s with timebase := tb } _ g).trans ?_
      rw [count]
      split <;> rfl
    case suppressed =>
      have left := applyAll_suppresses (deliveries_allDeliver s evs (State.now { s with timebase := tb }))
        (s := { s with timebase := tb }) (fun _ => false) hs
      refine ⟨_, run, left.pool, left.log, left.groups, fun g => (left.counter g).trans ?_⟩
      rw [countP_single single]
      split <;> rfl
    case triggers =>
      obtain ⟨e, one⟩ := deliveries_single single hm hothers (State.now { s with timebase := tb })
      rw [one] at run
      have run' : exec .syncArrival s =
          .next (({ s with timebase := tb } : State).deliver g (State.now { s with timebase := tb })) := run
      clear run
      rw [deliver_at_divider (s := { s with timebase := tb }) _ hh hq hat] at run'
      have same : (({ s with timebase := tb } : State).modGroup g fun r => { r with dividerCount := 0 }) =
          { u with timebase := tb } := by
        rw [hu]
        rfl
      rw [same] at run'
      have ustall : u.stall = none := by rw [hu]; exact hst
      have uquiet : u.quiescing = false := by rw [hu]; exact hq
      have ugroup : u.groups[g] = { s.groups[g] with dividerCount := 0 } := by rw [hu]; exact Vector.getElem_set_self ..
      have pool : u.pool = s.pool := by rw [hu]
      have opens : u.openCount g = s.openCount g := by unfold State.openCount; rw [pool]
      have trig := triggerRequest_triggers (u := u) (v := { u with timebase := tb }) rfl g
        (State.now { s with timebase := tb }) ustall uquiet
      have now : State.now (({ u with timebase := tb } : State).triggerRequest g
          (State.now { s with timebase := tb })) = State.now { s with timebase := tb } := by
        unfold State.now
        rw [(quiet_triggerRequest _ g _).timebase]
      generalize ({ u with timebase := tb } : State).triggerRequest g (State.now { s with timebase := tb }) = t
        at run' trig now
      rw [← now] at trig
      refine ⟨fun hn hopen => ?_, fun hn hopen hp => ?_, fun sl hsl => ?_⟩
      · obtain ⟨L, tpool⟩ := trig.seals (by rw [ugroup]; exact hn) (by rw [opens]; exact hopen)
        refine ⟨_, run', L, ?_, tpool.trans (by rw [pool])⟩
        rw [L.group, ugroup]
        rfl
      · have L := trig.completes (by rw [ugroup]; exact hn) (by rw [opens]; exact hopen) (by rw [ugroup]; exact hp)
        refine ⟨_, run', L, ?_⟩
        rw [L.group, ugroup]
        rfl
      · have slot : u.groups[g].slot = some sl := by rw [ugroup]; exact hsl
        have L := trig.overruns sl slot
        refine ⟨_, run', L.pool.trans pool, L.groups, ?_, ?_, ?_, ?_, ?_, L.flag, ?_, ?_⟩
        · rw [L.regions, hu]
        · rw [L.ready, hu]
        · rw [L.nextIssue, hu]
        · rw [L.groups, slot]
        · rw [L.groups, ugroup]
        · rw [L.counter, hu]
          rfl
        · refine L.log.trans (logRecord_log_congr ?_ _ _ _)
          rw [hu]

end Sys2Proof.Proofs

/-! The stall slot's expiry and the hold unit (O28, O30 to O33): discards over a list of groups, the entry to HELD up to
its retry, and the release. -/

namespace Sys2Proof.Machine

/-! ### Discards over a list of groups (R38, R40) -/

theorem foldl_discardOpen_eq (l : List GroupId) (s : State) :
    l.foldl State.discardOpen s =
      { s with pool := (l.foldl State.discardOpen s).pool, events := (l.foldl State.discardOpen s).events } := by
  induction l generalizing s with
  | nil => rfl
  | cons g l ih =>
    rw [List.foldl_cons, ih]
    rfl

theorem foldl_discardOpen_pool (l : List GroupId) (s : State) :
    (l.foldl State.discardOpen s).pool = s.pool.filter fun e => !decide (e.role = .opened ∧ e.group ∈ l) := by
  induction l generalizing s with
  | nil => simp
  | cons g l ih =>
    rw [List.foldl_cons, ih, State.discardOpen_pool, List.filter_filter]
    refine List.filter_congr fun e _ => ?_
    rw [Bool.eq_iff_iff]
    simp only [Entry.isOf, List.mem_cons, Bool.and_eq_true, Bool.not_eq_true', decide_eq_false_iff_not]
    constructor
    · rintro ⟨h, k⟩ ⟨ho, rfl | hg⟩
      · simp [ho] at k
      · exact h ⟨ho, hg⟩
    · intro h
      refine ⟨fun k => h ⟨k.1, .inr k.2⟩, ?_⟩
      by_cases hg : e.group = g
      · have : e.role ≠ .opened := fun ho => h ⟨ho, .inl hg⟩
        simp [this]
      · simp [hg]

/-- A group's discard leaves the OPEN entries of the other groups to be counted. -/
theorem foldl_discardOpen_counter {l : List GroupId} (hl : l.Nodup) (s : State) (g : GroupId) :
    (l.foldl State.discardOpen s).counter (.discarded g) =
      if g ∈ l then satAdd (s.counter (.discarded g)) (s.openCount g) else s.counter (.discarded g) := by
  induction l generalizing s with
  | nil => simp
  | cons k l ih =>
    obtain ⟨hk, hl⟩ := List.nodup_cons.1 hl
    have count : (s.discardOpen k).counter (.discarded g) =
        if g = k then satAdd (s.counter (.discarded k)) (s.openCount k) else s.counter (.discarded g) := by
      refine (counter_bump _ _ _ _).trans ?_
      simp only [Counter.discarded.injEq]
      rfl
    rw [List.foldl_cons, ih hl, count, openCount_discardOpen]
    by_cases h : g = k
    · subst h
      simp [hk]
    · simp [h]

theorem foldl_discardOpen_counter_ne (l : List GroupId) (s : State) {c : Counter} (h : ∀ g, c ≠ .discarded g) :
    (l.foldl State.discardOpen s).counter c = s.counter c := by
  induction l generalizing s with
  | nil => rfl
  | cons g l ih =>
    rw [List.foldl_cons, ih]
    exact (counter_bump _ _ _ _).trans (if_neg (h g))

theorem foldl_discardOpen_flags (l : List GroupId) (s : State) :
    (l.foldl State.discardOpen s).events.flags = s.events.flags := by
  induction l generalizing s with
  | nil => rfl
  | cons g l ih =>
    rw [List.foldl_cons, ih]
    rfl

theorem foldl_discardOpen_flagSet (l : List GroupId) (s : State) (f : Flag) :
    (l.foldl State.discardOpen s).flagSet f = s.flagSet f :=
  congrArg (fun v : BitVec 16 => v.getLsbD f.pos) (foldl_discardOpen_flags l s)

/-! ### The entry to HELD, up to its retry (R40, R126) -/

theorem mem_allGroups (g : GroupId) : g ∈ allGroups := by
  fin_cases g <;> simp [allGroups]

theorem allGroups_nodup : allGroups.Nodup := by decide

theorem mem_discardGroups (s : State) (g : GroupId) : g ∈ s.discardGroups ↔ s.groups[g].holdPolicy = .discard := by
  unfold State.discardGroups
  rw [List.mem_filter]
  simp only [mem_allGroups, true_and, decide_eq_true_eq]

theorem State.discardGroups_nodup (s : State) : s.discardGroups.Nodup := allGroups_nodup.filter _

/-- The hold unit HELD, with its flag, before the entry's own discards. -/
def State.heldBy (s : State) (c : HoldCause) : State :=
  State.raise { s with hold := { s.hold with state := .held, cause := c, counter := 0, suppressed := 0 } } .holdOn

/-- The entry to HELD up to its retry of the stall slot. -/
def State.entering (s : State) (c : HoldCause) : State :=
  s.discardGroups.foldl State.discardOpen (s.heldBy c).refuseStalledOfDiscard

theorem refuseStalledOfDiscard_eq (s : State) :
    s.refuseStalledOfDiscard =
      { s with stall := s.refuseStalledOfDiscard.stall, responses := s.refuseStalledOfDiscard.responses,
               events := s.refuseStalledOfDiscard.events } := by
  unfold State.refuseStalledOfDiscard
  split
  · rfl
  · split
    · unfold State.refuseStalled
      split <;> rfl
    · rfl

theorem entering_eq (s : State) (c : HoldCause) :
    s.entering c = { s with
      hold := { s.hold with state := .held, cause := c, counter := 0, suppressed := 0 }
      pool := (s.entering c).pool
      stall := (s.heldBy c).refuseStalledOfDiscard.stall
      responses := (s.heldBy c).refuseStalledOfDiscard.responses
      events := (s.entering c).events } := by
  unfold State.entering
  rw [foldl_discardOpen_eq, refuseStalledOfDiscard_eq]
  rfl

/-- The OPEN entries of the DISCARD groups are freed, and no other (R40). -/
theorem entering_pool (s : State) (c : HoldCause) :
    (s.entering c).pool =
      s.pool.filter fun e => !decide (e.role = .opened ∧ s.groups[e.group].holdPolicy = .discard) := by
  unfold State.entering
  rw [foldl_discardOpen_pool, refuseStalledOfDiscard_eq]
  simp only [mem_discardGroups]
  rfl

theorem enterHeld_eq (s : State) (c : HoldCause) :
    s.enterHeld c = (s.entering c).retry.logRecord 0 s.now
      (.holdOn (s.pool.length - (s.entering c).pool.length) c) := by
  have same : (s.heldBy c).refuseStalledOfDiscard.discardGroups = s.discardGroups := by
    unfold State.discardGroups
    rw [refuseStalledOfDiscard_eq]
    rfl
  have used : (s.heldBy c).refuseStalledOfDiscard.poolUsed = s.pool.length := by
    rw [refuseStalledOfDiscard_eq]
    rfl
  have unfolded : s.enterHeld c = ((s.heldBy c).refuseStalledOfDiscard.discardGroups.foldl State.discardOpen
      (s.heldBy c).refuseStalledOfDiscard).retry.logRecord 0
      (State.now ((s.heldBy c).refuseStalledOfDiscard.discardGroups.foldl State.discardOpen
        (s.heldBy c).refuseStalledOfDiscard).retry)
      (.holdOn ((s.heldBy c).refuseStalledOfDiscard.poolUsed -
        ((s.heldBy c).refuseStalledOfDiscard.discardGroups.foldl State.discardOpen
          (s.heldBy c).refuseStalledOfDiscard).poolUsed) c) := rfl
  have now : State.now (s.entering c).retry = s.now := by
    unfold State.now
    rw [(quiet_retry _).timebase, entering_eq]
  rw [unfolded, same, used]
  rw [← now]
  rfl

theorem entering_unstalled {s : State} (h : s.stall = none) (c : HoldCause) :
    (s.heldBy c).refuseStalledOfDiscard = s.heldBy c := by
  unfold State.refuseStalledOfDiscard
  rw [show (s.heldBy c).stall = none from h]

theorem entering_refuses {s : State} {w : StalledWrite} (h : s.stall = some w)
    (hd : s.groups[s.regions[w.region].group].holdPolicy = .discard) (c : HoldCause) :
    (s.heldBy c).refuseStalledOfDiscard = ({ s.heldBy c with stall := none } : State).refuseWrite w.tag := by
  have stall : (s.heldBy c).stall = some w := h
  unfold State.refuseStalledOfDiscard
  rw [stall]
  refine (if_pos hd).trans ?_
  unfold State.refuseStalled
  rw [stall]

theorem entering_keeps {s : State} {w : StalledWrite} (h : s.stall = some w)
    (hd : s.groups[s.regions[w.region].group].holdPolicy = .freeze) (c : HoldCause) :
    (s.heldBy c).refuseStalledOfDiscard = s.heldBy c := by
  have kept : s.groups[s.regions[w.region].group].holdPolicy ≠ .discard := by rw [hd]; nofun
  unfold State.refuseStalledOfDiscard
  rw [show (s.heldBy c).stall = some w from h]
  exact if_neg kept

/-- The entry with the stall slot EMPTY after its refusals: no retry. -/
theorem enterHeld_of_empty {s : State} {c : HoldCause} (h : (s.heldBy c).refuseStalledOfDiscard.stall = none) :
    s.enterHeld c = (s.entering c).logRecord 0 s.now (.holdOn (s.pool.length - (s.entering c).pool.length) c) := by
  rw [enterHeld_eq, retry_of_empty]
  rw [entering_eq]
  exact h

/-- What the entry's own record leaves, read of the state before it. -/
theorem enterHeld_frame {s : State} {c : HoldCause} (h : (s.heldBy c).refuseStalledOfDiscard.stall = none) :
    s.enterHeld c = { s.entering c with log := (s.enterHeld c).log, events := (s.enterHeld c).events } := by
  rw [enterHeld_of_empty h]
  exact logRecord_eq _ _ _ _

theorem enterHeld_log {s : State} {c : HoldCause} (h : (s.heldBy c).refuseStalledOfDiscard.stall = none) :
    (s.enterHeld c).log =
      (s.logRecord 0 s.now (.holdOn (s.pool.length - (s.enterHeld c).pool.length) c)).log := by
  have pool : (s.enterHeld c).pool = (s.entering c).pool := by rw [enterHeld_frame h]
  rw [pool, enterHeld_of_empty h]
  refine logRecord_log_congr (s := s) (t := s.entering c) ?_ _ _ _
  rw [entering_eq]

theorem enterHeld_pool {s : State} {c : HoldCause} (h : (s.heldBy c).refuseStalledOfDiscard.stall = none) :
    (s.enterHeld c).pool =
      s.pool.filter fun e => !decide (e.role = .opened ∧ s.groups[e.group].holdPolicy = .discard) := by
  rw [enterHeld_frame h]
  exact entering_pool s c

/-- HOLD_ON stands after the entry whatever the stalled write does (R127). -/
theorem entering_holdOn (s : State) (c : HoldCause) : (s.entering c).flagSet .holdOn = true := by
  unfold State.entering
  rw [foldl_discardOpen_flagSet]
  have raised : (s.heldBy c).flagSet .holdOn = true := flagSet_raise_self _ _
  unfold State.refuseStalledOfDiscard
  split
  · exact raised
  · split
    · unfold State.refuseStalled
      split
      · exact raised
      · refine (flagSet_raise _ _ _).trans ?_
        rw [flagSet_bump]
        exact Bool.or_eq_true_iff.2 (.inl raised)
    · exact raised

theorem flagSet_retry_of_set {s : State} {f : Flag} (h : s.flagSet f = true) : s.retry.flagSet f = true := by
  have judged : s.judge.1.flagSet f = true := by
    unfold State.flagSet
    rw [judge_events]
    exact h
  unfold State.retry
  generalize s.judge = j at judged
  obtain ⟨t, _ | g⟩ := j
  · exact judged
  · exact flagSet_pressureRequest_of_set g judged

theorem enterHeld_holdOn (s : State) (c : HoldCause) : (s.enterHeld c).flagSet .holdOn = true := by
  rw [enterHeld_eq]
  exact flagSet_logRecord_of_set _ _ _ _ _ (flagSet_retry_of_set (entering_holdOn s c))

theorem enterHeld_holdAct {s : State} (hr : s.inReset = false) (c : HoldCause) : (s.enterHeld c).holdAct = true := by
  unfold State.holdAct
  rw [enterHeld_hold, (still_enterHeld s c).inReset, hr]
  rfl

/-! ### The ticks of a STOPPED counter at which one thing falls due (R35, R123) -/

theorem advance_now {s : State} (h : s.timebase.running = false) : s.advance.now = s.now := by
  unfold State.now
  rw [show s.advance.timebase = { s.timebase.step.after with interval := s.timebase.prescale } from rfl, step_stopped h]

theorem advance_stallDue_of_some {s : State} {w : StalledWrite} (h : s.stall = some w) :
    s.advance.stallDue = decide (s.stallLimit ≤ min 65535 (w.elapsed + 1)) := by
  unfold State.stallDue
  rw [show s.advance.stall = s.stall.map StalledWrite.aged from rfl, h]
  rfl

/-! ### Frames whose seals leave only a reply beside them -/

theorem SealLeaves.replied {s t : State} {g : GroupId} {c : SealCause} {ts : Stamp} (h : SealLeaves s t g c ts)
    (st : Status) (l : List Byte) : SealLeaves s (t.replied st l) g c ts :=
  h.congr_right rfl rfl rfl rfl rfl rfl rfl rfl rfl rfl rfl rfl rfl

theorem EmptySealLeaves.replied {s t : State} {g : GroupId} {c : SealCause} {ts : Stamp}
    (h : EmptySealLeaves s t g c ts) (st : Status) (l : List Byte) : EmptySealLeaves s (t.replied st l) g c ts where
  group := h.group
  others := h.others
  pool := h.pool
  regions := h.regions
  forwardQueue := h.forwardQueue
  outstanding := h.outstanding
  tracker := h.tracker
  ready := h.ready
  nextIssue := h.nextIssue
  seals := h.seals
  done := h.done
  log := h.log
  hold := h.hold
  channel := h.channel
  lastGrant := h.lastGrant
  drainTags := h.drainTags

/-- A frame handed to its block: the block's next state with the reply in the port (R170). -/
theorem exec_hand {c : Instr} {f : Frame} {s : State} (hs : s.fresh = true)
    (h : Laws.FrameBytes.frameOf c = some f) {t : Taken} (ht : s.hand f = t) :
    exec c s = .next (t.state.replied t.status t.payload) := by
  rw [exec_of_fresh hs h, ← ht]
  rfl

/-! ### The release (R77, R131) -/

/-- A filter of the groups that one group passes alone. -/
theorem filter_allGroups_of_one {p : GroupId → Bool} {g : GroupId} (h : ∀ k, p k = true ↔ k = g) :
    allGroups.filter p = [g] := by
  have same : p = fun k => decide (k = g) := funext fun k => by
    rw [Bool.eq_iff_iff, h k, decide_eq_true_eq]
  rw [same]
  fin_cases g <;> rfl

theorem mem_pendingGroups (s : State) (g : GroupId) :
    (s.groups[g].pendingRetire && s.canSeal g) = true ↔
      s.groups[g].pendingRetire = true ∧ s.hold.state ≠ .held ∧ s.quiescing = false ∧ s.groups[g].slot = none := by
  rw [Bool.and_eq_true, canSeal_iff]

/-- The state of a release, up to the seals it offers: the hold CLEAR and its record made (R131). -/
def State.released (s : State) : State :=
  State.logRecord { s with hold := { s.hold with state := .clear } } 0 s.now (.holdOff s.hold.suppressed)

theorem released_eq (s : State) :
    s.released = { s with hold := { s.hold with state := .clear }, log := s.released.log, events := s.released.events } :=
  logRecord_eq _ _ _ _

theorem release_eq (s : State) :
    s.release = (arrange s.draws s.released.pendingGroups).foldl State.offerPending
      (s.released.drew s.released.pendingGroups.length) := by
  have draws : s.released.draws = s.draws := by rw [released_eq]
  rw [← draws]
  rfl

theorem release_idle {s : State} (h : (∀ g : GroupId, s.groups[g].pendingRetire = false ∨ s.groups[g].slot ≠ none) ∨
    s.quiescing = true) : s.release = s.released := by
  have none_ : s.released.pendingGroups = [] := by
    refine List.filter_eq_nil_iff.2 fun g _ hg => ?_
    rw [mem_pendingGroups, released_eq] at hg
    obtain ⟨hp, -, hq, hn⟩ := hg
    rcases h with h | h
    · rcases h g with k | k
      · exact absurd (k.symm.trans hp) nofun
      · exact k hn
    · exact absurd (h.symm.trans hq) nofun
  rw [release_eq, none_]
  rfl

/-- The one pending retire seal that a release takes (R77). -/
theorem release_seals {s : State} {g : GroupId} (hq : s.quiescing = false) (hp : s.groups[g].pendingRetire = true)
    (hn : s.groups[g].slot = none)
    (ho : ∀ h : GroupId, h ≠ g → s.groups[h].pendingRetire = false ∨ s.groups[h].slot ≠ none) :
    s.release = s.released.sealFull g .retire s.now := by
  have pending : ∀ k : GroupId, (s.released.groups[k].pendingRetire && s.released.canSeal k) = true ↔ k = g := by
    intro k
    rw [mem_pendingGroups, released_eq]
    constructor
    · rintro ⟨kp, -, -, kn⟩
      by_contra hk
      rcases ho k hk with h | h
      · exact absurd (h.symm.trans kp) nofun
      · exact h kn
    · rintro rfl
      exact ⟨hp, nofun, hq, hn⟩
  have one : s.released.pendingGroups = [g] := filter_allGroups_of_one pending
  have now : s.released.now = s.now := by rw [released_eq]; rfl
  rw [release_eq, one]
  show s.released.offerPending g = _
  rw [← now]
  exact if_pos ((pending g).2 rfl)

end Sys2Proof.Machine

namespace Sys2Proof.Proofs

open Sys2Proof.Machine

/-- Settles O28: the expiry is all that falls due at the tick. -/
theorem stalledWriteExpires : Obligations.StalledWriteExpires := by
  intro s w hr hrun hf hw
  have due := advance_stallDue_of_some hw
  refine ⟨fun h => ?expires, fun h => ?waits⟩
  case waits =>
    have early : (!s.inReset && s.advance.stallDue) = false := by
      rw [due, decide_eq_false (by omega), Bool.and_false]
    show execStallTimeout s = _
    unfold execStallTimeout
    rw [early]
    rfl
  case expires =>
    have late : s.advance.stallDue = true := due.trans (decide_eq_true h)
    have calm : s.advance.filterDue = false := by rw [advance_filterDue_eq, decide_eq_false hf, Bool.false_and]
    have all : s.dueAtTick = [.stallExpiry] := by
      rw [dueAtTick_stopped hrun, late, calm]
      rfl
    have named : exec .stallTimeout s = .next s.advance.expireStall := by
      show execStallTimeout s = _
      unfold execStallTimeout State.tickFirst
      rw [hr, late, all]
      rfl
    have tick : exec .tick s = .next s.advance.expireStall := by
      rw [exec_tick hr]
      unfold State.tickFirst
      rw [all]
      rfl
    have left : s.advance.expireStall =
        ((({ s.advance with stall := none } : State).respond w.tag .errStage none).bump .stallTimeouts 1).raise
          .stallTimeout := by
      unfold State.expireStall
      rw [show s.advance.stall = s.stall.map StalledWrite.aged from rfl, hw]
      rfl
    refine ⟨_, named, tick, ?_⟩
    rw [left]
    refine ⟨rfl, rfl, ?_, ?_, flagSet_raise_self _ _, ?_, rfl, rfl, rfl, rfl, fun g => advance_group s g⟩
    · exact counter_bump_self _ _ _
    · refine (counter_bump _ _ _ _).trans (if_neg nofun)
    · refine (flagSet_raise _ _ _).trans ?_
      rw [decide_eq_false nofun, Bool.or_false]
      rfl

/-- Settles O30: the line by hold state and filter. -/
theorem lineFiltersAndTrips : Obligations.LineFiltersAndTrips := by
  intro s hr
  have low : exec .hldNAsserted s = .next ({ s with hldLow := true } : State).lineAsserted :=
    if_neg (by rw [hr]; exact Bool.false_ne_true)
  have high : exec .hldNDeasserted s = .next ({ s with hldLow := false } : State).lineDeasserted :=
    if_neg (by rw [hr]; exact Bool.false_ne_true)
  rw [low, high]
  refine ⟨fun hs hf => ?_, fun hs hf => ?trips, fun hs => ?_, fun hs => ?_, fun hs => ?_⟩
  · exact congrArg Host.Outcome.next ((if_pos hs).trans (if_neg hf))
  case trips =>
    refine ⟨State.enterHeld { s with hldLow := true } .line,
      congrArg Host.Outcome.next ((if_pos hs).trans (if_pos hf)), (still_enterHeld _ _).hldLow,
      enterHeld_holdAct (s := { s with hldLow := true }) hr _, enterHeld_holdOn { s with hldLow := true } _, ?_,
      fun hst => ?_⟩
    · rw [enterHeld_hold]
      show Hold.mk _ _ _ _ s.hold.filter = _
      rw [hf]
    · have empty : (State.heldBy { s with hldLow := true } .line).refuseStalledOfDiscard.stall = none := by
        rw [entering_unstalled (s := { s with hldLow := true }) hst]
        exact hst
      exact ⟨enterHeld_pool empty, (enterHeld_log empty).trans
        (logRecord_log_congr (s := s) (t := { s with hldLow := true }) rfl _ _ _)⟩
  · exact congrArg Host.Outcome.next (if_neg hs)
  · exact congrArg Host.Outcome.next (if_pos hs)
  · exact congrArg Host.Outcome.next (if_neg hs)

/-- Settles O31: the completed filter is all that falls due at the tick. -/
theorem filterCompletesIntoHeld : Obligations.FilterCompletesIntoHeld := by
  intro s hr hrun hst hf
  have due := advance_filterDue_eq s
  rw [decide_eq_true hf, Bool.true_and] at due
  refine ⟨fun h => ?completes, fun h => ?waits⟩
  case waits =>
    have early : (!s.inReset && s.advance.filterDue) = false := by
      rw [due, decide_eq_false (by omega), Bool.and_false]
    show execFilterComplete s = _
    unfold execFilterComplete
    rw [early]
    rfl
  case completes =>
    have late : s.advance.filterDue = true := due.trans (decide_eq_true h)
    have calm : s.advance.stallDue = false := advance_stallDue_eq_false fun w hw => by rw [hst] at hw; nomatch hw
    have all : s.dueAtTick = [.filterComplete] := by
      rw [dueAtTick_stopped hrun, late, calm]
      rfl
    have run : exec .filterComplete s = .next (s.advance.enterHeld .line) := by
      have filtering : s.advance.hold.state = .filtering := (ticked_state _).trans hf
      show execFilterComplete s = _
      unfold execFilterComplete State.tickFirst
      rw [hr, late, all]
      exact congrArg Host.Outcome.next (if_pos filtering)
    have stall : s.advance.stall = none := by
      show s.stall.map _ = none
      rw [hst]
      rfl
    have empty : (s.advance.heldBy .line).refuseStalledOfDiscard.stall = none := by
      rw [entering_unstalled stall]
      exact stall
    have policy : ∀ g : GroupId, s.advance.groups[g].holdPolicy = s.groups[g].holdPolicy := fun g => by
      rw [advance_group]
      rfl
    refine ⟨_, run, ?_, enterHeld_holdAct (s := s.advance) hr _, enterHeld_holdOn s.advance _, ?_, fun g => ?_, ?_, ?_, ?_, ?_⟩
    · rw [enterHeld_hold, show s.advance.hold.filter = s.hold.filter from ticked_filter _]
    · rw [enterHeld_pool empty]
      simp only [policy]
      rfl
    · rw [enterHeld_of_empty empty, counter_logRecord_ne _ _ _ _ (c := .discarded g) nofun]
      unfold State.entering
      rw [entering_unstalled stall, foldl_discardOpen_counter s.advance.discardGroups_nodup]
      simp only [mem_discardGroups, policy]
      rfl
    · rw [enterHeld_log empty, advance_now hrun]
      exact logRecord_log_congr (s := s) (t := s.advance) rfl _ _ _
    · rw [enterHeld_frame empty, entering_eq]
      rfl
    · rw [enterHeld_frame empty, entering_eq, entering_unstalled stall]
      rfl
    · rw [enterHeld_frame empty, entering_eq]
      rfl

/-- Settles O32: HOLD_SET by hold state and by what stands in the stall slot. -/
theorem holdSetEntersHeld : Obligations.HoldSetEntersHeld := by
  intro s a hs
  have run := exec_hand (c := .holdSet a) hs rfl (t := s.takeHoldSet) rfl
  refine ⟨fun hh => ?held, ?_⟩
  case held =>
    have taken : s.takeHoldSet = s.acted := if_pos (by rw [State.held, hh]; rfl)
    rw [run, taken]
    rfl
  have enters : s.hold.state ≠ .held → exec (.holdSet a) s = .next ((s.enterHeld .software).replied .ack [0, 0]) := by
    intro hh
    have taken : s.takeHoldSet = (s.enterHeld .software).acted := if_neg (by simpa [State.held] using hh)
    rw [run, taken]
    rfl
  refine ⟨fun hh hst => ?unstalled, fun w hh hw => ⟨fun hd => ?refused, fun hd => ?offered⟩⟩
  case unstalled =>
    have empty : (s.heldBy .software).refuseStalledOfDiscard.stall = none := by
      rw [entering_unstalled hst]
      exact hst
    refine ⟨_, enters hh, enterHeld_hold _ _, rfl, enterHeld_holdOn _ _, ?_, enterHeld_pool empty, enterHeld_log empty,
      ?_, ?_, (still_enterHeld s _).timebase⟩
    · show (s.enterHeld .software).counter .holdFiltered = _
      rw [enterHeld_of_empty empty, counter_logRecord_ne _ _ _ _ (c := .holdFiltered) nofun]
      unfold State.entering
      rw [foldl_discardOpen_counter_ne _ _ (c := .holdFiltered) nofun, entering_unstalled hst]
      rfl
    · show (s.enterHeld .software).groups = _
      rw [enterHeld_frame empty, entering_eq]
    · show (s.enterHeld .software).regions = _
      rw [enterHeld_frame empty, entering_eq]
  case refused =>
    have refuses := entering_refuses hw hd .software
    have empty : (s.heldBy .software).refuseStalledOfDiscard.stall = none := by rw [refuses]; rfl
    refine ⟨_, enters hh, ?_, ?_, ?_, ?_, ?_, enterHeld_pool empty, enterHeld_log empty⟩
    · show (s.enterHeld .software).hold.state = _
      rw [enterHeld_hold]
    · show (s.enterHeld .software).stall = _
      rw [enterHeld_frame empty, entering_eq]
      exact empty
    · show (s.enterHeld .software).responses = _
      rw [enterHeld_frame empty, entering_eq, refuses]
      rfl
    · show (s.enterHeld .software).counter .refusedWrites = _
      rw [enterHeld_of_empty empty, counter_logRecord_ne _ _ _ _ (c := .refusedWrites) nofun]
      unfold State.entering
      rw [foldl_discardOpen_counter_ne _ _ (c := .refusedWrites) nofun, refuses]
      exact counter_bump_self _ _ _
    · show (s.enterHeld .software).flagSet .refused = true
      rw [enterHeld_of_empty empty]
      refine flagSet_logRecord_of_set _ _ _ _ _ ?_
      unfold State.entering
      rw [foldl_discardOpen_flagSet, refuses]
      exact flagSet_raise_self _ _
  case offered =>
    have keeps := entering_keeps hw hd .software
    refine ⟨s.entering .software, ?_, ?_, ?_, ?_, ?_, entering_pool s _, ?_, ?_, ?_⟩
    · rw [entering_eq, keeps]
      exact hw
    · rw [entering_eq, keeps]
      rfl
    · rw [entering_eq]
    · rw [entering_eq]
    · rw [entering_eq]
    · rw [entering_eq]
    · rw [entering_eq]
    · rw [enters hh, enterHeld_eq]

/-- Settles O33: HOLD_RELEASE by hold state and line, with the pending retire seal it takes. -/
theorem holdReleaseAnswered : Obligations.HoldReleaseAnswered := by
  intro s a hs
  have run := exec_hand (c := .holdRelease a) hs rfl (t := s.takeHoldRelease) rfl
  unfold State.takeHoldRelease at run
  refine ⟨fun hh => ?_, fun hh => ?_, fun hh hl => ?_, fun u hh hl hu => ?released⟩
  · rw [run, hh]
    rfl
  · rw [run, hh]
    rfl
  · rw [run, hh, hl]
    rfl
  case released =>
    have hu : u = s.released := hu
    subst hu
    rw [hh, hl] at run
    have run : exec (.holdRelease a) s = .next (s.release.replied .ack [0, 0]) := run
    refine ⟨fun h => by rw [run, release_idle h], fun g hq hst hp hn ho => ?_⟩
    rw [release_seals hq hp hn ho] at run
    have quiet : s.released.quiescing = false := by rw [released_eq]; exact hq
    have stall : s.released.stall = none := by rw [released_eq]; exact hst
    have pool : s.released.pool = s.pool := by rw [released_eq]
    have opens : s.released.openCount g = s.openCount g := by unfold State.openCount; rw [pool]
    refine ⟨_, run, rfl, ?_, fun hopen => ?_, fun hopen => ?_⟩
    · show (s.released.sealFull g .retire s.now).hold = _
      rw [(quiet_sealFull _ g _ _).hold, released_eq]
    · have hopen : 0 < s.released.openCount g := by rw [opens]; exact hopen
      rw [sealFull_of_entries _ _ hopen stall]
      refine ⟨(sealGroup_leaves .retire s.now hopen quiet).replied _ _, ?_⟩
      show (s.released.sealGroup g .retire s.now).pool = _
      rw [sealGroup_eq, ← pool]
      exact takeSeal_pool _ _ _
    · have hopen : s.released.openCount g = 0 := by rw [opens]; exact hopen
      exact (sealFull_leaves_empty s.now hopen stall (.inl rfl) quiet).replied _ _

end Sys2Proof.Proofs

/-! Hardware reset, chip select and the clocking of frames (O34 to O38): bytes name their frame, and no shorter beginning of
them names one. -/

namespace Sys2Proof.Machine

/-! ### The bytes of a frame name it, and with its last byte alone (R169, R170) -/

/-- A kind byte outside Table 10-5 is a frame of its own: 256 bytes to try. -/
theorem parseRequest_badKind : ∀ k : Byte, namesKind k = false → parseRequest [k] = some (.nak (.kind k)) := by
  decide

theorem parseRead_badClass : ∀ c : Byte, namesClass c = false → parseRead [c] = some (.nak (.readClass c)) := by
  decide

theorem parseWrite_badClass : ∀ c : Byte, namesClass c = false → parseWrite [c] = some (.nak (.writeClass c)) := by
  decide

theorem parseAction_badCode : ∀ c : Byte, namesAction c = false → parseAction [c] = some (.nak (.actionCode c)) := by
  decide

/-- Decode of encode (R170). -/
theorem parseRequest_bytes {f : Frame} (h : ∀ b : BadRequest, f = .nak b → b.wellFormed = true) :
    parseRequest f.bytes = some f := by
  cases f with
  | nak b =>
    have named : b.wellFormed = true := h b rfl
    cases b with
    | kind k => exact parseRequest_badKind k (by simpa [BadRequest.wellFormed] using named)
    | readClass c => exact parseRead_badClass c (by simpa [BadRequest.wellFormed] using named)
    | writeClass c => exact parseWrite_badClass c (by simpa [BadRequest.wellFormed] using named)
    | actionCode c => exact parseAction_badCode c (by simpa [BadRequest.wellFormed] using named)
  | regWrite r v =>
    show some (Frame.regWrite r (word32 _ _ _ _)) = _
    rw [word32_extract]
  | writeRegion i fields =>
    show some (Frame.writeRegion i { fields with base := word32 _ _ _ _ }) = _
    rw [word32_extract]
  | writeWatch i fields =>
    show some (Frame.writeWatch i { fields with low := word32 _ _ _ _, high := word32 _ _ _ _ }) = _
    rw [word32_extract, word32_extract]
  | eventAck m =>
    show some (Frame.eventAck (word16 _ _)) = _
    rw [word16_extract]
  | probe a =>
    show some (Frame.probe (word32 _ _ _ _)) = _
    rw [word32_extract]
  | _ => rfl

/-- A request in progress names no frame yet (R170). -/
theorem parseRequest_take (f : Frame) {n : Nat} (h0 : 0 < n) (hn : n < f.bytes.length) :
    parseRequest (f.bytes.take n) = none := by
  cases f with
  | nak b =>
    cases b with
    | kind k => exact absurd hn (by simp [Frame.bytes]; omega)
    | readClass c | writeClass c | actionCode c =>
      obtain rfl : n = 1 := by
        have : n < 2 := hn
        omega
      rfl
  | regRead r =>
    obtain rfl : n = 1 := by
      have : n < 2 := hn
      omega
    rfl
  | logPop | logPeek | status => exact absurd hn (by simp [Frame.bytes]; omega)
  | regWrite r v =>
    have : n < 6 := hn
    interval_cases n <;> rfl
  | writeRegion i fields =>
    have : n < 11 := hn
    interval_cases n <;> rfl
  | writeGroup i fields =>
    have : n < 8 := hn
    interval_cases n <;> rfl
  | writeWatch i fields =>
    have : n < 14 := hn
    interval_cases n <;> rfl
  | eventAck m =>
    have : n < 4 := hn
    interval_cases n <;> rfl
  | probe a =>
    have : n < 5 := hn
    interval_cases n <;> rfl
  | _ =>
    have : n < 3 := hn
    interval_cases n <;> rfl

theorem bytes16_eq (v : BitVec 16) : bytes16 v = [BitVec.ofNat 8 v.toNat, BitVec.ofNat 8 (v.toNat / 2 ^ 8)] := by
  simp only [bytes16, BitVec.extractLsb', Nat.shiftRight_eq_div_pow, Nat.pow_zero, Nat.div_one]

theorem bytes32_eq (v : BitVec 32) :
    bytes32 v = [BitVec.ofNat 8 v.toNat, BitVec.ofNat 8 (v.toNat / 2 ^ 8), BitVec.ofNat 8 (v.toNat / 2 ^ 16),
      BitVec.ofNat 8 (v.toNat / 2 ^ 24)] := by
  simp only [bytes32, BitVec.extractLsb', Nat.shiftRight_eq_div_pow, Nat.pow_zero, Nat.div_one]

/-! ### Clocking (R169) -/

/-- A frame under way: these bytes of it have come. -/
def State.received (s : State) (l : List Byte) : State :=
  { s with port := { s.port with got := l, miso := some 0 } }

/-- Out of reset a byte meets the receiver (R169). -/
theorem clockByte_pending {s : State} {b : Byte} (hr : s.inReset = false) (hx : s.port.rx = .request)
    (h : parseRequest (s.port.got ++ [b]) = none) : s.clockByte b = s.received (s.port.got ++ [b]) := by
  unfold State.clockByte
  rw [if_neg (by rw [hr]; exact Bool.false_ne_true), hx]
  dsimp only
  rw [h]
  rfl

/-- The last byte of a request hands it over. -/
theorem clockByte_last {s : State} {b : Byte} {f : Frame} (hr : s.inReset = false) (hx : s.port.rx = .request)
    (h : parseRequest (s.port.got ++ [b]) = some f) : s.clockByte b = s.takeFrame f := by
  unfold State.clockByte
  rw [if_neg (by rw [hr]; exact Bool.false_ne_true), hx]
  dsimp only
  rw [h]

/-- What a byte does to the port alone, in the states of the receiver that take no request byte (R169). -/
def Port.clocked (p : Port) : Port :=
  match p.rx with
  | .pad => { p with rx := .reply, miso := some 0 }
  | .reply => p.shift
  | .spent => { p with miso := some 0 }
  | .idle | .blocked | .request => p

theorem clockByte_clocked {s : State} (hr : s.inReset = false) (hx : s.port.rx ≠ .request) (b : Byte) :
    s.clockByte b = { s with port := s.port.clocked } := by
  unfold State.clockByte Port.clocked
  rw [if_neg (by rw [hr]; exact Bool.false_ne_true)]
  cases h : s.port.rx with
  | request => exact absurd h hx
  | spent =>
    dsimp only
    rw [h]
  | idle | blocked | pad | reply => rfl

/-- A proper beginning of a request is received and taken by nobody. -/
theorem foldl_clockByte_prefix {f : Frame} {s : State} (hs : s.fresh = true) {l : List Byte} (h0 : l ≠ [])
    (hp : l <+: f.bytes) (hne : l ≠ f.bytes) : l.foldl State.clockByte s = s.received l := by
  obtain ⟨hr, hx, hg⟩ := (fresh_iff s).1 hs
  induction l using List.reverseRecOn with
  | nil => exact absurd rfl h0
  | append_singleton l b ih =>
    have pending : parseRequest (l ++ [b]) = none := by
      have short : (l ++ [b]).length < f.bytes.length :=
        lt_of_le_of_ne hp.length_le fun e => hne (hp.eq_of_length e)
      rw [List.prefix_iff_eq_take.1 hp]
      exact parseRequest_take f (by simp) short
    rw [List.foldl_append, List.foldl_cons, List.foldl_nil]
    by_cases hl : l = []
    · subst hl
      rw [List.foldl_nil, clockByte_pending hr hx (by rw [hg]; exact pending), hg]
    · have proper : l ≠ f.bytes := by
        rintro rfl
        have := hp.length_le
        simp at this
      rw [ih hl ((List.prefix_append l [b]).trans hp) proper]
      exact clockByte_pending (s := s.received l) hr hx pending

/-- A request clocked into a fresh frame is taken with its last byte (R170). -/
theorem foldl_clockByte_bytes {f : Frame} (hf : ∀ b : BadRequest, f = .nak b → b.wellFormed = true) {s : State}
    (hs : s.fresh = true) : f.bytes.foldl State.clockByte s = s.takeFrame f := by
  obtain ⟨hr, hx, hg⟩ := (fresh_iff s).1 hs
  have whole := parseRequest_bytes hf
  obtain h | ⟨l, b, h⟩ := List.eq_nil_or_concat f.bytes
  · rw [h] at whole
    nomatch whole
  · rw [List.concat_eq_append] at h
    rw [h] at whole
    rw [h, List.foldl_append, List.foldl_cons, List.foldl_nil]
    by_cases hl : l = []
    · subst hl
      rw [List.foldl_nil]
      exact clockByte_last hr hx (by rw [hg]; exact whole)
    · have proper : l ≠ f.bytes := by rw [h]; simp
      rw [foldl_clockByte_prefix (f := f) hs hl (by rw [h]; exact List.prefix_append l [b]) proper]
      exact (clockByte_last (s := s.received l) hr hx whole).trans (takeFrame_withPort _ s f)

/-- A byte clocked in is a command that always answers. -/
theorem foldl_exec_sclkByte (l : List Byte) (s : State) :
    l.foldl (fun (o : Host.Outcome State Fault Refusal) b => match o with
      | .next u => exec (.sclkByte b) u
      | x => x) (.next s) = .next (l.foldl State.clockByte s) := by
  induction l generalizing s with
  | nil => rfl
  | cons b l ih => exact ih (s.clockByte b)

end Sys2Proof.Machine

namespace Sys2Proof.Proofs

open Sys2Proof.Machine

/-- Settles O34: the reset state with the lines, and what RESET_END looks at. -/
theorem hardwareResetAndItsEnd : Obligations.HardwareResetAndItsEnd := by
  intro s
  refine ⟨s.underReset, rfl, rfl, rfl, rfl, ?_⟩
  show execResetEnd s.underReset = _
  rw [execResetEnd_of_inReset rfl, show s.underReset.hldLow = s.hldLow from rfl]
  by_cases h : s.hldLow = true
  · rw [if_pos h, if_pos h]
    rfl
  · rw [if_neg h, if_neg h]
    rfl

/-- Settles O35: both edges replace the port and the line. -/
theorem chipSelectBoundsFrames : Obligations.ChipSelectBoundsFrames := by
  intro s hr
  refine ⟨fun hx => ?_, ?_⟩
  · exact congrArg Host.Outcome.next (if_pos (by rw [hr, hx]; rfl))
  · exact congrArg Host.Outcome.next (if_neg (by rw [hr]; exact Bool.false_ne_true))

/-- Settles O36: decode of encode, and the bytes themselves. -/
theorem requestBytesNameTheirFrame : Obligations.RequestBytesNameTheirFrame := by
  refine ⟨fun f hf => parseRequest_bytes hf, bytes16_eq, bytes32_eq, fun r v m fr fg fw => ?_⟩
  refine ⟨rfl, rfl, rfl, rfl, rfl, rfl, rfl, rfl, fun p hp => ?actions, rfl, rfl, rfl, rfl, rfl, rfl, rfl, rfl, rfl⟩
  case actions =>
    simp only [List.mem_cons, List.not_mem_nil, or_false] at hp
    rcases hp with rfl | rfl | rfl | rfl | rfl | rfl | rfl | rfl | rfl | rfl | rfl | rfl <;> rfl

/-- Settles O37: byte by byte, and in one command. -/
theorem clockedRequestIsTaken : Obligations.ClockedRequestIsTaken := by
  intro f s hf hs
  refine ⟨?_, frameRow_fresh hs f, fun l h0 hp hne => foldl_clockByte_prefix hs h0 hp hne⟩
  exact (foldl_exec_sclkByte f.bytes s).trans (congrArg Host.Outcome.next (foldl_clockByte_bytes hf hs))

/-- Settles O38: one byte time for each state of the receiver. -/
theorem repliesAreShiftedOut : Obligations.RepliesAreShiftedOut := by
  refine ⟨fun s st l => by cases st <;> rfl, fun s b hr => ?_⟩
  have run : s.port.rx ≠ .request → exec (.sclkByte b) s = .next { s with port := s.port.clocked } :=
    fun hx => congrArg Host.Outcome.next (clockByte_clocked hr hx b)
  refine ⟨fun hx => ?_, fun x hx hget => ?reply, fun hx => ?_, fun hx => ?_⟩
  · rw [run (by rw [hx]; nofun), Port.clocked, hx]
  case reply =>
    obtain ⟨hlt, rfl⟩ := List.getElem?_eq_some_iff.1 hget
    have last : (if s.port.sent + 1 < s.port.reply.length then RxState.reply else RxState.spent) =
        if s.port.sent + 1 = s.port.reply.length then RxState.spent else RxState.reply := by
      split <;> split <;> first | rfl | omega
    rw [run (by rw [hx]; nofun), Port.clocked, hx]
    dsimp only
    rw [Port.shift, last, List.getD_eq_getElem _ _ hlt]
  · rw [run (by rw [hx]; nofun), Port.clocked, hx]
    dsimp only
    rw [hx]
  · rcases hx with hx | hx <;> rw [run (by rw [hx]; nofun), Port.clocked, hx]

end Sys2Proof.Proofs

/-! Registers, group and watch records, and the timer actions over the management port (O39 to O41, O44 to O46). -/

namespace Sys2Proof.Machine

/-! ### A frame that its block refuses or accepts (R172) -/

theorem exec_refused {c : Instr} {f : Frame} {s : State} {st : Status} (hs : s.fresh = true)
    (hf : Laws.FrameBytes.frameOf c = some f) (h : s.hand f = s.refuse st) :
    exec c s = .next (s.replied st []) := by
  rw [exec_of_fresh hs hf, takeFrame_of_refuse h]

theorem exec_accepted {c : Instr} {f : Frame} {s t : State} {payload : List Byte} (hs : s.fresh = true)
    (hf : Laws.FrameBytes.frameOf c = some f) (h : s.hand f = t.accept payload) :
    exec c s = .next (t.replied .ack payload) := by
  rw [exec_of_fresh hs hf, takeFrame_of_accept h]

/-! ### The codes that software writes (Tables 10-3 and 10-6) -/

@[simp] theorem decodeTimerMode_code (m : TimerMode) : decodeTimerMode m.code = some m := by cases m <;> rfl

@[simp] theorem decodeSyncMode_code (m : SyncMode) : decodeSyncMode m.code = some m := by cases m <;> rfl

@[simp] theorem decodeSource_code (s : Source) : decodeSource s.code = some s := by cases s <;> rfl

@[simp] theorem decodeHoldPolicy_code (p : HoldPolicy) : decodeHoldPolicy p.code = some p := by cases p <;> rfl

@[simp] theorem decodeWatchKinds_code (k : WatchKinds) : decodeWatchKinds k.code = some k := by cases k <;> rfl

theorem decodeTimerMode_eq_none {n : Nat} (h : 3 ≤ n) : decodeTimerMode n = none := by
  obtain ⟨k, rfl⟩ := Nat.exists_eq_add_of_le' h
  rfl

theorem decodeSyncMode_eq_none {n : Nat} (h : 3 ≤ n) : decodeSyncMode n = none := by
  obtain ⟨k, rfl⟩ := Nat.exists_eq_add_of_le' h
  rfl

theorem decodeSource_eq_none {n : Nat} (h : 8 ≤ n) : decodeSource n = none := by
  obtain ⟨k, rfl⟩ := Nat.exists_eq_add_of_le' h
  rfl

theorem decodeHoldPolicy_eq_none {n : Nat} (h : 2 ≤ n) : decodeHoldPolicy n = none := by
  obtain ⟨k, rfl⟩ := Nat.exists_eq_add_of_le' h
  rfl

theorem decodeWatchKinds_eq_none {n : Nat} (h : 3 ≤ n) : decodeWatchKinds n = none := by
  obtain ⟨k, rfl⟩ := Nat.exists_eq_add_of_le' h
  rfl

/-! ### Reading a register (R173) -/

section
variable {s : State} {n : Byte}

theorem exec_regRead_named (hs : s.fresh = true) {v : BitVec 32} (h : s.register n = some v) :
    exec (.regRead n) s = .next (s.replied .ack (bytes32 v)) := by
  refine exec_accepted hs rfl (t := s) ?_
  show s.takeRegRead n = _
  unfold State.takeRegRead
  rw [h]

theorem exec_regRead_unnamed (hs : s.fresh = true) (h : s.register n = none) :
    exec (.regRead n) s = .next (s.replied .nakRange []) := by
  refine exec_refused hs rfl ?_
  show s.takeRegRead n = _
  unfold State.takeRegRead
  rw [h]

theorem register_counter {k : Fin 26} (h : n.toNat = 0x20 + k.val) :
    s.register n = some (BitVec.ofNat 32 s.events.counters[k]) := by
  unfold State.register
  rw [h, Nat.add_comm]
  refine (dif_pos ⟨by omega, by omega⟩).trans ?_
  simp

/-- The numbers between the tables' blocks name nothing. -/
theorem register_gap (h : (0x09 < n.toNat ∧ n.toNat < 0x10) ∨ (0x18 < n.toNat ∧ n.toNat < 0x20) ∨ 0x39 < n.toNat) :
    s.register n = none := by
  unfold State.register
  generalize n.toNat = m at h
  rcases h with ⟨low, high⟩ | ⟨low, high⟩ | h
  · interval_cases m <;> rfl
  · interval_cases m <;> rfl
  · obtain ⟨k, rfl⟩ := Nat.exists_eq_add_of_le' h
    exact dif_neg (by omega)

end

/-- HOLD_STATE as a byte, where its cause bit is settled (Table 10-3). -/
theorem holdStateReg_bytes {s : State} (h : s.hold.state = .held ∨ s.hold.cause = .line) :
    bytes32 s.holdStateReg = [
      (match s.hold.state with | .clear => 0#8 | .filtering => 1#8 | .held => 2#8) |||
        (if s.hold.cause = .software then 4#8 else 0#8) ||| (if s.hldLow then 8#8 else 0#8), 0, 0, 0] := by
  unfold State.holdStateReg
  rcases h with h | h
  · rw [h]
    cases s.hold.cause <;> cases s.hldLow <;> decide
  · rw [h]
    cases s.hold.state <;> cases s.hldLow <;> decide

theorem stallCode_bytes (w : Option StalledWrite) :
    bytes32 ((stallCode w).setWidth 32) =
      [(match w with | none => 0#8 | some w => if w.cause = .noEntry then 1#8 else 2#8), 0, 0, 0] := by
  cases w with
  | none => decide
  | some w =>
    cases h : w.cause with
    | noEntry => simp [stallCode, h, bytes32]
    | retireDrain => simp [stallCode, h, bytes32]

/-! ### Writing a register (R174) -/

theorem takeRegWrite_unwritable {s : State} {n : Byte} (h : 0x09 < n.toNat) (v : BitVec 32) :
    s.takeRegWrite n v = s.refuse .nakRange := by
  unfold State.takeRegWrite
  generalize n.toNat = m at h
  obtain ⟨k, rfl⟩ := Nat.exists_eq_add_of_le' h
  rfl

/-- PERIOD_LIMIT: the shadow, and while STOPPED the load at once (R51, R52). -/
theorem writePeriodLimit_legal {s : State} {v : BitVec 32} (h1 : 1 ≤ v.toNat) (h2 : v.toNat ≤ 65535) :
    s.writePeriodLimit v = State.accept
      { s with timebase :=
        if s.timebase.running then { s.timebase with limitShadow := v.toNat }
        else if v.toNat < s.timebase.count then
          { s.timebase with limitShadow := v.toNat, limit := v.toNat, count := 0, dir := .up }
        else { s.timebase with limitShadow := v.toNat, limit := v.toNat } } [] :=
  if_pos ⟨h1, h2⟩

/-! ### Group records (R17, R18) -/

/-- The five carried fields within their ranges, but for their codes. -/
def GroupFields.InRange (f : GroupFields) : Prop :=
  1 ≤ f.divider.toNat ∧ f.divider.toNat ≤ 16 ∧ 1 ≤ f.quota.toNat ∧ f.quota.toNat ≤ 64

/-- The group's record with the carried fields, its divider count 0 (R17). -/
def GroupFields.over (f : GroupFields) (r : Group) (src : Source) (p : HoldPolicy) : Group :=
  { r with
    source := src, divider := f.divider.toNat, quota := f.quota.toNat, holdPolicy := p,
    pressureSeal := f.pressureSeal.getLsbD 0, dividerCount := 0 }

theorem GroupFields.decode_eq_some {f : GroupFields} {r : Group} {src : Source} {p : HoldPolicy}
    (h : GroupFields.InRange f) (hs : f.source.toNat = src.code) (hp : f.holdPolicy.toNat = p.code) :
    GroupFields.decode f r = some (GroupFields.over f r src p) := by
  refine (if_pos h).trans ?_
  rw [hs, hp, decodeSource_code, decodeHoldPolicy_code]
  rfl

/-- One field out of its range refuses the record. -/
theorem GroupFields.decode_eq_none {f : GroupFields} {r : Group}
    (h : 8 ≤ f.source.toNat ∨ f.divider.toNat = 0 ∨ 16 < f.divider.toNat ∨ f.quota.toNat = 0 ∨ 64 < f.quota.toNat ∨
      2 ≤ f.holdPolicy.toNat) : GroupFields.decode f r = none := by
  by_cases hr : GroupFields.InRange f
  · refine (if_pos hr).trans ?_
    obtain ⟨h1, h2, h3, h4⟩ := hr
    obtain h | h | h | h | h | h := h
    · rw [decodeSource_eq_none h]
    · omega
    · omega
    · omega
    · omega
    · rw [decodeHoldPolicy_eq_none h]
      cases decodeSource f.source.toNat <;> rfl
  · exact if_neg hr

section
variable {s : State} {i : Byte} {g : GroupId} {f : GroupFields}

theorem takeWriteGroup_unnamed (h : 4 ≤ i.toNat) : s.takeWriteGroup i f = s.refuse .nakRange := dif_neg (by omega)

theorem takeReadGroup_unnamed (h : 4 ≤ i.toNat) : s.takeReadGroup i = s.refuse .nakRange := dif_neg (by omega)

theorem takeReadGroup_named (h : i.toNat = g.val) : s.takeReadGroup i = s.accept (s.groupBytes g) := by
  have named : (⟨i.toNat, by omega⟩ : GroupId) = g := Fin.ext h
  refine (dif_pos (by omega)).trans ?_
  rw [named]

theorem takeWriteGroup_named (h : i.toNat = g.val) :
    s.takeWriteGroup i f = match GroupFields.decode f s.groups[g] with
      | none => s.refuse .nakRange
      | some r =>
        if s.held && r.holdPolicy != s.groups[g].holdPolicy then s.refuse .nakState
        else if r.quota < s.openCount g then s.refuse .nakRange
        else (if s.groups[g].quota < r.quota then (s.modGroup g fun _ => r).retry
          else s.modGroup g fun _ => r).accept [] := by
  obtain ⟨g, hg⟩ := g
  obtain rfl : i.toNat = g := h
  exact dif_pos hg

/-- The group record as it is read (R18). -/
theorem groupBytes_eq (s : State) (g : GroupId) :
    s.groupBytes g =
      [byteOf (Source.code s.groups[g].source), byteOf s.groups[g].divider, byteOf s.groups[g].quota,
        byteOf (HoldPolicy.code s.groups[g].holdPolicy), if s.groups[g].pressureSeal then 1 else 0] ++
      bytes16 s.groups[g].openGen ++
      [byteOf (s.openCount g), byteOf s.groups[g].dividerCount, if s.groups[g].pendingRetire then 1 else 0] ++
      (match s.groups[g].slot with
        | none => [0, 0, 0, 0, 0]
        | some sl =>
          [match sl.phase with | .fenced => 1 | .ready => 2 | .draining => 3] ++ bytes16 sl.gen ++
            [byteOf sl.entries, byteOf sl.fence]) := by
  unfold State.groupBytes
  dsimp only
  generalize s.groups[g] = r
  cases r.slot with
  | none => rfl
  | some sl =>
    obtain ⟨phase, gen, entries, fence, written, failed, elapsed⟩ := sl
    cases phase <;> rfl

end

/-! ### Watch records (R155) -/

theorem WatchFields.decode_eq_none {f : WatchFields}
    (h : 3 ≤ f.kinds.toNat ∨ f.decimation.toNat ∉ [1, 4, 16] ∨ f.high.toNat < f.low.toNat) :
    WatchFields.decode f = none := by
  by_cases hr : f.decimation.toNat ∈ [1, 4, 16] ∧ f.low.toNat ≤ f.high.toNat
  · refine (if_pos hr).trans ?_
    obtain ⟨hd, hl⟩ := hr
    obtain h | h | h := h
    · rw [decodeWatchKinds_eq_none h]
    · exact absurd hd h
    · omega
  · exact if_neg hr

theorem WatchFields.decode_eq_some {f : WatchFields} {k : WatchKinds} (hk : f.kinds.toNat = k.code)
    (hd : f.decimation.toNat ∈ [1, 4, 16]) (hl : f.low.toNat ≤ f.high.toNat) :
    WatchFields.decode f = some
      { low := f.low, high := f.high, kinds := k, decimation := f.decimation.toNat,
        enabled := f.enable.getLsbD 0, counter := 0 } := by
  refine (if_pos ⟨hd, hl⟩).trans ?_
  rw [hk, decodeWatchKinds_code]

section
variable {s : State} {i : Byte} {w : Fin 4} {f : WatchFields}

theorem takeWriteWatch_unnamed (h : 4 ≤ i.toNat) : s.takeWriteWatch i f = s.refuse .nakRange := dif_neg (by omega)

theorem takeReadWatch_unnamed (h : 4 ≤ i.toNat) : s.takeReadWatch i = s.refuse .nakRange := dif_neg (by omega)

theorem takeReadWatch_named (h : i.toNat = w.val) : s.takeReadWatch i = s.accept s.watches[w].bytes := by
  simp [State.takeReadWatch, h]

theorem takeWriteWatch_refused (h : i.toNat = w.val) (hf : WatchFields.decode f = none) :
    s.takeWriteWatch i f = s.refuse .nakRange := by
  simp [State.takeWriteWatch, h, hf]

theorem takeWriteWatch_decoded {record : Watch} (h : i.toNat = w.val) (hf : WatchFields.decode f = some record) :
    s.takeWriteWatch i f = State.accept { s with watches := s.watches.set w record } [] := by
  simp [State.takeWriteWatch, h, hf]

end

end Sys2Proof.Machine

namespace Sys2Proof.Proofs

open Sys2Proof.Machine

/-- Settles O39: the table of registers, number by number. -/
theorem registerReadsReply : Obligations.RegisterReadsReply := by
  intro s hs
  refine ⟨fun p hp => ?table, fun h => ?_, ?_, fun n k h => ?_, fun n c h => ?_, fun n h => ?_, fun b => ?_⟩
  case table =>
    have dir : (Dir.bit s.timebase.dir).setWidth 32 = if s.timebase.dir = .down then 1#32 else 0#32 := by
      cases s.timebase.dir <;> rfl
    have running : (boolBit s.timebase.running).setWidth 32 = if s.timebase.running then 1#32 else 0#32 := by
      cases s.timebase.running <;> rfl
    simp only [List.mem_cons, List.not_mem_nil, or_false] at hp
    rcases hp with rfl | rfl | rfl | rfl | rfl | rfl | rfl | rfl | rfl | rfl | rfl | rfl | rfl | rfl | rfl | rfl | rfl
    case inr.inr.inr.inr.inr.inr.inr.inr.inr.inr.inr.inl => exact exec_regRead_named hs (congrArg some dir)
    case inr.inr.inr.inr.inr.inr.inr.inr.inr.inr.inr.inr.inr.inl => exact exec_regRead_named hs (congrArg some running)
    all_goals exact exec_regRead_named hs rfl
  · exact (exec_regRead_named hs (v := s.holdStateReg) rfl).trans
      (congrArg (fun l => Host.Outcome.next (s.replied .ack l)) (holdStateReg_bytes h))
  · exact (exec_regRead_named hs (v := (stallCode s.stall).setWidth 32) rfl).trans
      (congrArg (fun l => Host.Outcome.next (s.replied .ack l)) (stallCode_bytes s.stall))
  · exact exec_regRead_named hs (register_counter h)
  · refine exec_regRead_named hs (register_counter (k := c.index) ?_)
    rw [h]
    cases c <;> simp [Counter.index] <;> omega
  · exact exec_regRead_unnamed hs (register_gap h)
  · exact exec_refused hs rfl rfl

/-- Settles O40: each register's rule, taken or refused. -/
theorem timebaseRegisterWrites : Obligations.TimebaseRegisterWrites := by
  refine ⟨by decide, fun s v hs => ⟨fun hr => ?_, fun hr hv => ?_, fun hr m hm => ?_, fun hv => ?_, fun hv => ?_,
    fun h1 h2 => ?_, fun hv => ?_, fun hv => ?_, fun hv => ?_, fun m hm => ?_, fun hv => ?_⟩⟩
  · exact exec_refused hs rfl (if_pos hr)
  · refine exec_refused hs rfl ((if_neg (by rw [hr]; exact Bool.false_ne_true)).trans ?_)
    rw [decodeTimerMode_eq_none hv]
  · refine exec_accepted hs rfl ((if_neg (by rw [hr]; exact Bool.false_ne_true)).trans ?_)
    rw [hm, decodeTimerMode_code]
  · exact exec_accepted hs rfl (if_pos hv)
  · exact exec_refused hs rfl (if_neg hv)
  · exact exec_accepted hs rfl (writePeriodLimit_legal h1 h2)
  · exact exec_refused hs rfl (if_neg (by omega))
  · exact exec_accepted hs rfl (if_pos hv)
  · exact exec_refused hs rfl (if_neg (by omega))
  · refine exec_accepted hs rfl (f := .regWrite 0x04 v) ?_
    show s.writeSyncMode v = _
    unfold State.writeSyncMode
    rw [hm, decodeSyncMode_code]
  · refine exec_refused hs rfl (f := .regWrite 0x04 v) ?_
    show s.writeSyncMode v = _
    unfold State.writeSyncMode
    rw [decodeSyncMode_eq_none hv]

/-- Settles O41: each register's rule, taken or refused, and the numbers that REG_WRITE knows. -/
theorem otherRegisterWrites : Obligations.OtherRegisterWrites := by
  intro s v hs
  refine ⟨fun hv => ?_, fun hv => ?_, fun h1 h2 => ?_, fun hv => ?_, fun hv => ?_, fun hv => ?_, fun h1 h2 => ?_,
    fun hv => ?_, fun hv => ?_, fun hv => ?_, fun p hp => ?numbers, fun n hn => ?_⟩
  · exact exec_accepted hs rfl (if_pos hv)
  · exact exec_refused hs rfl (if_neg hv)
  · exact exec_accepted hs rfl (if_pos ⟨h1, h2⟩)
  · exact exec_refused hs rfl (if_neg (by omega))
  · exact exec_accepted hs rfl (if_pos hv)
  · exact exec_refused hs rfl (if_neg (by omega))
  · exact exec_accepted hs rfl (if_pos ⟨h1, h2⟩)
  · exact exec_refused hs rfl (if_neg (by omega))
  · exact exec_accepted hs rfl (if_pos hv)
  · exact exec_refused hs rfl (if_neg (by omega))
  case numbers =>
    simp only [List.mem_cons, List.not_mem_nil, or_false] at hp
    rcases hp with rfl | rfl | rfl | rfl | rfl | rfl | rfl | rfl | rfl | rfl <;> exact ⟨_, rfl, rfl⟩
  · exact exec_refused hs rfl (takeRegWrite_unwritable hn v)

/-- Settles O44: R17's tests in their order, and R18's bytes. -/
theorem groupRecordsWrittenAndRead : Obligations.GroupRecordsWrittenAndRead := by
  refine ⟨by decide, fun s i f hs => ⟨fun hi => ⟨?_, ?_⟩, fun g hi => ⟨fun h => ?refused, ?written, ?read⟩⟩⟩
  · exact exec_refused hs rfl (takeWriteGroup_unnamed hi)
  · exact exec_refused hs rfl (takeReadGroup_unnamed hi)
  case refused =>
    refine exec_refused hs rfl ((takeWriteGroup_named hi).trans ?_)
    rw [GroupFields.decode_eq_none h]
  case read =>
    exact (exec_accepted (f := .readGroup i) hs rfl (takeReadGroup_named hi)).trans
      (congrArg (fun l => Host.Outcome.next (s.replied .ack l)) (groupBytes_eq s g))
  case written =>
    intro src hp hsrc hhp d1 d2 q1 q2
    have taken : s.hand (.writeGroup i f) = _ := takeWriteGroup_named (s := s) (f := f) hi
    rw [GroupFields.decode_eq_some ⟨d1, d2, q1, q2⟩ hsrc hhp] at taken
    have allowed : s.hold.state ≠ .held ∨ hp = s.groups[g].holdPolicy →
        (s.held && (GroupFields.over f s.groups[g] src hp).holdPolicy != s.groups[g].holdPolicy) = false := by
      rintro (h | h)
      · rw [show s.held = false by simpa [State.held] using h, Bool.false_and]
      · rw [show (GroupFields.over f s.groups[g] src hp).holdPolicy = s.groups[g].holdPolicy from h, bne_self_eq_false,
          Bool.and_false]
    refine ⟨fun hh hne => ?_, fun ha hq => ?_, fun ha hq hr => ?_, fun ha hq hr => ?_⟩
    · refine exec_refused hs rfl (taken.trans (if_pos ?_))
      rw [show s.held = true by rw [State.held, hh]; rfl, Bool.true_and]
      exact bne_iff_ne.2 hne
    · refine exec_refused hs rfl (taken.trans ((if_neg ?_).trans (if_pos hq)))
      rw [allowed ha]
      exact Bool.false_ne_true
    · refine exec_accepted hs rfl (taken.trans ((if_neg ?_).trans ((if_neg (Nat.not_lt.2 hq)).trans ?_)))
      · rw [allowed ha]
        exact Bool.false_ne_true
      · refine congrArg (fun t : State => t.accept []) ?_
        split
        · rename_i raised
          rcases hr with hst | hle
          · exact retry_of_empty hst
          · exact absurd raised (Nat.not_lt.2 hle)
        · rfl
    · refine exec_accepted hs rfl (taken.trans ((if_neg ?_).trans ((if_neg (Nat.not_lt.2 hq)).trans ?_)))
      · rw [allowed ha]
        exact Bool.false_ne_true
      · exact congrArg (fun t : State => t.accept []) (if_pos hr)

/-- Settles O45: R155's tests, and the six fields. -/
theorem watchRecordsWrittenAndRead : Obligations.WatchRecordsWrittenAndRead := by
  refine ⟨by decide, fun s i f hs => ⟨fun hi => ⟨?_, ?_⟩, fun w hi => ⟨fun h => ?_, fun k hk hd hl => ?_, ?_⟩⟩⟩
  · exact exec_refused hs rfl (takeWriteWatch_unnamed hi)
  · exact exec_refused hs rfl (takeReadWatch_unnamed hi)
  · exact exec_refused hs rfl (takeWriteWatch_refused hi (WatchFields.decode_eq_none h))
  · exact exec_accepted hs rfl (takeWriteWatch_decoded hi (WatchFields.decode_eq_some hk hd hl))
  · exact exec_accepted hs rfl (takeReadWatch_named hi)

/-- Settles O46: the timer actions by run state. -/
theorem timerActionsByRunState : Obligations.TimerActionsByRunState := by
  intro s a hs
  refine ⟨fun hr => ⟨?_, ?_, ?_⟩, fun hr => ⟨?_, ?_, ?_⟩⟩
  · exact exec_accepted hs rfl (if_neg (by rw [hr]; exact Bool.false_ne_true))
  · have stopped : ({ s with timebase := { s.timebase with running := false } } : State) = s := by rw [← hr]
    refine (exec_accepted hs rfl (t := { s with timebase := { s.timebase with running := false } }) rfl).trans ?_
    rw [stopped]
  · exact exec_refused hs rfl (if_neg (by rw [hr]; exact Bool.false_ne_true))
  · exact exec_refused hs rfl (if_pos hr)
  · exact exec_accepted hs rfl rfl
  · refine exec_accepted hs rfl ((if_pos hr).trans ?_)
    unfold Timebase.restarted
    rw [← hr]
    rfl

end Sys2Proof.Proofs

/-! The log, the flags and the counters (O50, O51), the quiesce of DATAPATH_RESET (O52, O53) and the reset state (O55). -/

namespace Sys2Proof.Machine

/-! ### INT_N (R181) -/

theorem and_ne_zero_iff {n : Nat} (a b : BitVec n) :
    (a &&& b) ≠ 0 ↔ ∃ k : Nat, a.getLsbD k = true ∧ b.getLsbD k = true := by
  constructor
  · intro h
    by_contra none_
    refine h (BitVec.eq_of_getLsbD_eq fun k _ => ?_)
    rw [BitVec.getLsbD_and]
    refine Eq.trans ?_ BitVec.getLsbD_zero.symm
    by_contra both
    rw [Bool.not_eq_false, Bool.and_eq_true] at both
    exact none_ ⟨k, both⟩
  · rintro ⟨k, ha, hb⟩ h
    have bit : (a &&& b).getLsbD k = true := by rw [BitVec.getLsbD_and, ha, hb]; rfl
    rw [h] at bit
    exact absurd (bit.symm.trans BitVec.getLsbD_zero) nofun

theorem intAsserted_iff (s : State) : s.intAsserted = true ↔
    s.inReset = false ∧ ∃ k : Nat, s.events.flags.getLsbD k = true ∧ s.events.enables.getLsbD k = true := by
  unfold State.intAsserted
  rw [Bool.and_eq_true, Bool.not_eq_true', bne_iff_ne, and_ne_zero_iff]

/-! ### The layout of a log record (Tables 10-10 and 10-11) -/

theorem toNat_append_eq_add {m n : Nat} (x : BitVec m) (y : BitVec n) :
    (x ++ y).toNat = x.toNat * 2 ^ n + y.toNat := by
  rw [BitVec.toNat_append, ← Nat.shiftLeft_add_eq_or_of_lt y.isLt, Nat.shiftLeft_eq]

/-- Byte 1: direction, gap bit and index. -/
theorem headerByte_eq (d : Dir) (p : Bool) (i : Fin 4) :
    Dir.bit d ++ boolBit p ++ 0#3 ++ BitVec.ofNat 3 i =
      BitVec.ofNat 8 ((if d = .down then 128 else 0) + (if p then 64 else 0) + i.val) := by
  cases d <;> cases p <;> revert i <;> decide

/-- What every record has, whatever its body (Table 10-10). -/
theorem bytes_frame (i : Fin 4) (ts : Stamp) (gap : Nat) (p : Bool) (b : LogBody) (bs : List Byte)
    (h : LogRecord.bytes { index := i, stamp := ts, gap := gap, gapPresent := p, body := b } = bs) :
    bs.length = 16 ∧
    bs[1]? = some (BitVec.ofNat 8 ((if ts.dir = .down then 128 else 0) + (if p then 64 else 0) + i.val)) ∧
    (bs.drop 2).take 2 = bytes16 (BitVec.ofNat 16 ts.count) ∧ (bs.drop 4).take 4 = bytes32 ts.period ∧
    (bs.drop 14) = bytes16 (BitVec.ofNat 16 gap) := by
  subst h
  exact ⟨rfl, congrArg some (headerByte_eq ts.dir p i), rfl, rfl, rfl⟩

theorem bytes16_zero : bytes16 0 = [0, 0] := by decide

/-- Where the body stands in a record (Table 10-10). -/
theorem bytes_body (i : Fin 4) (ts : Stamp) (gap : Nat) (p : Bool) (b : LogBody) (bs : List Byte)
    (h : LogRecord.bytes { index := i, stamp := ts, gap := gap, gapPresent := p, body := b } = bs) :
    bs[0]? = some (byteOf b.kind) ∧ (bs.drop 8).take 4 = bytes32 b.wordA ∧ (bs.drop 12).take 2 = bytes16 b.halfB := by
  subst h
  exact ⟨rfl, rfl, rfl⟩

theorem access_halfB (addr : Addr) (tag : UTag) (k : ReqKind) (z : Size) (path : Path) :
    LogBody.halfB (.access addr tag k z path) = BitVec.ofNat 16 (tag.val + 16 * (ReqKind.bit k).toNat +
      32 * (Size.code z).toNat + 128 * (Path.code path).toNat) := by
  have ht := tag.isLt
  have hk := (ReqKind.bit k).isLt
  have hz := (Size.code z).isLt
  have hp := (Path.code path).isLt
  refine BitVec.eq_of_toNat_eq ?_
  simp only [LogBody.halfB, toNat_append_eq_add, BitVec.toNat_ofNat]
  omega

theorem sealed_wordA (gen : BitVec 16) {n : Nat} (hn : n ≤ 64) (c : SealCause) (f : Nat) :
    LogBody.wordA (.sealed gen n c f) =
      BitVec.ofNat 32 (gen.toNat + n * 2 ^ 16 + (SealCause.code c).toNat * 2 ^ 24) := by
  have hc := (SealCause.code c).isLt
  have hg := gen.isLt
  refine BitVec.eq_of_toNat_eq ?_
  simp only [LogBody.wordA, toNat_append_eq_add, BitVec.toNat_ofNat]
  omega

theorem drainDone_wordA (gen : BitVec 16) {w f : Nat} (hw : w ≤ 64) (hf : f ≤ 64) (ab : Bool) (el : Nat) :
    LogBody.wordA (.drainDone gen w f ab el) =
      BitVec.ofNat 32 (gen.toNat + w * 2 ^ 16 + f * 2 ^ 24 + (if ab then 2 ^ 31 else 0)) := by
  have hg := gen.isLt
  refine BitVec.eq_of_toNat_eq ?_
  cases ab <;> simp only [LogBody.wordA, toNat_append_eq_add, BitVec.toNat_ofNat, boolBit] <;> simp <;> omega

theorem overrun_wordA (gen : BitVec 16) (ph : SlotPhase) :
    LogBody.wordA (.overrun gen ph) = BitVec.ofNat 32 (gen.toNat + (SlotPhase.code ph).toNat * 2 ^ 16) := by
  have hg := gen.isLt
  have hp := (SlotPhase.code ph).isLt
  refine BitVec.eq_of_toNat_eq ?_
  simp only [LogBody.wordA, toNat_append_eq_add, BitVec.toNat_ofNat]
  omega

theorem holdOn_wordA {n : Nat} (hn : n ≤ 64) (c : HoldCause) :
    LogBody.wordA (.holdOn n c) = BitVec.ofNat 32 (n + (HoldCause.bit c).toNat * 2 ^ 8) := by
  have hc := (HoldCause.bit c).isLt
  refine BitVec.eq_of_toNat_eq ?_
  simp only [LogBody.wordA, toNat_append_eq_add, BitVec.toNat_ofNat]
  omega

theorem holdOff_wordA {n : Nat} (hn : n ≤ 65535) : LogBody.wordA (.holdOff n) = BitVec.ofNat 32 n := by
  refine BitVec.eq_of_toNat_eq ?_
  simp only [LogBody.wordA, toNat_append_eq_add, BitVec.toNat_ofNat]
  omega

end Sys2Proof.Machine

namespace Sys2Proof.Proofs

open Sys2Proof.Machine

/-- Settles O50: the flags, the counters, INT_N and the log's commands. -/
theorem logFlagsAndCountersCleared : Obligations.LogFlagsAndCountersCleared := by
  refine ⟨fun s f => by cases f <;> rfl, fun s f k => ⟨?_, rfl⟩, fun s c k n => ⟨counter_bump s c k n, rfl⟩,
    intAsserted_iff, fun s a m hs => ?frames⟩
  · rw [flagSet_raise, Bool.or_eq_true, decide_eq_true_eq, or_comm]
  case frames =>
    have acked : exec (.eventAck m) s = .next (State.replied
        { s with events := { s.events with flags := s.events.flags &&& ~~~m } } .ack
        (bytes16 (s.events.flags &&& ~~~m))) := exec_accepted hs rfl rfl
    refine ⟨⟨_, acked, ?_⟩, fun h => ⟨?_, ?_⟩, fun r rest h => ⟨?_, ?_⟩, exec_accepted hs rfl rfl, acked,
      exec_accepted hs rfl rfl⟩
    · have awake : s.inReset = false := ((fresh_iff s).1 hs).1
      rw [intAsserted_iff]
      constructor
      · rintro ⟨-, k, hf, he⟩
        have hf : (s.events.flags &&& ~~~m).getLsbD k = true := hf
        have he : s.events.enables.getLsbD k = true := he
        rw [BitVec.getLsbD_and, BitVec.getLsbD_not] at hf
        simp only [Bool.and_eq_true, Bool.not_eq_true'] at hf
        exact ⟨k, hf.1, he, hf.2.2⟩
      · rintro ⟨k, hf, he, hm⟩
        refine ⟨awake, k, ?_, he⟩
        show (s.events.flags &&& ~~~m).getLsbD k = true
        rw [BitVec.getLsbD_and, BitVec.getLsbD_not, hf, hm, decide_eq_true (BitVec.lt_of_getLsbD hf)]
        rfl
    · refine exec_refused hs rfl ?_
      show s.takeLogPop = _
      unfold State.takeLogPop
      rw [h]
    · refine exec_refused hs rfl ?_
      show s.takeLogPeek = _
      unfold State.takeLogPeek
      rw [h]
    · refine exec_accepted hs rfl ?_
      show s.takeLogPop = _
      unfold State.takeLogPop
      rw [h]
    · refine exec_accepted hs rfl ?_
      show s.takeLogPeek = _
      unfold State.takeLogPeek
      rw [h]

/-- Settles O51: the frame of every record, and the body of each kind. -/
theorem logRecordLayout : Obligations.LogRecordLayout := by
  intro i ts gap p bs
  refine ⟨fun addr tag k z path h => ?access, fun gen n c f hn h => ?sealed, fun gen w f ab el hw hf h => ?drainDone,
    fun gen ph h => ?overrun, fun addr gen h => ?drainFault, fun n c hn h => ?holdOn, fun n hn h => ?holdOff,
    fun b h => bytes_frame i ts gap p b bs h⟩
  case access =>
    obtain ⟨hlen, hhead, hcount, hperiod, hgap⟩ := bytes_frame _ _ _ _ _ _ h
    obtain ⟨hkind, hword, hhalf⟩ := bytes_body _ _ _ _ _ _ h
    refine ⟨hlen, hkind, hhead, hcount, hperiod, hword, hhalf.trans (congrArg bytes16 ?_), hgap⟩
    rw [access_halfB]
    cases k <;> cases z <;> cases path <;> rfl
  case sealed =>
    obtain ⟨hkind, hword, hhalf⟩ := bytes_body _ _ _ _ _ _ h
    refine ⟨hkind, hword.trans (congrArg bytes32 ?_), hhalf⟩
    rw [sealed_wordA gen hn]
    cases c <;> rfl
  case drainDone =>
    obtain ⟨hkind, hword, hhalf⟩ := bytes_body _ _ _ _ _ _ h
    exact ⟨hkind, hword.trans (congrArg bytes32 (drainDone_wordA gen hw hf ab el)), hhalf⟩
  case overrun =>
    obtain ⟨hkind, hword, hhalf⟩ := bytes_body _ _ _ _ _ _ h
    refine ⟨hkind, hword.trans (congrArg bytes32 ?_), hhalf.trans bytes16_zero⟩
    rw [overrun_wordA]
    cases ph <;> rfl
  case drainFault => exact bytes_body _ _ _ _ _ _ h
  case holdOn =>
    obtain ⟨hkind, hword, hhalf⟩ := bytes_body _ _ _ _ _ _ h
    refine ⟨hkind, hword.trans (congrArg bytes32 ?_), hhalf.trans bytes16_zero⟩
    rw [holdOn_wordA hn]
    cases c <;> rfl
  case holdOff =>
    obtain ⟨hkind, hword, hhalf⟩ := bytes_body _ _ _ _ _ _ h
    exact ⟨hkind, hword.trans (congrArg bytes32 (holdOff_wordA hn)), hhalf.trans bytes16_zero⟩

/-- Settles O55: every conjunct is a fact about the one fixed state. -/
theorem resetIsSound : Obligations.ResetIsSound := by
  refine ⟨?_, ?_, ?_, ?_, ?_, ?_, ?_, ?_, ?_, ?_⟩
  · unfold State.PoolBounded
    decide
  · unfold State.ArrivalsInOrder
    decide
  · unfold State.OneOpenEntry
    decide
  · unfold State.WindowsApart
    decide
  · unfold State.DividersBelow
    decide
  · constructor <;> decide
  · unfold State.LogBounded
    decide
  · unfold State.CountersBounded
    decide
  · unfold State.PlacesBounded
    decide
  · constructor <;> decide

end Sys2Proof.Proofs

/-! The quiesce of DATAPATH_RESET (O52, O53): the path it waits for, and what its last step leaves. -/

namespace Sys2Proof.Machine

/-! ### The path (R149) -/

theorem mem_allTags (t : UTag) : t ∈ allTags := by
  fin_cases t <;> simp [allTags]

theorem pathEmpty_iff (s : State) : s.pathEmpty = true ↔
    s.forwardQueue = [] ∧ s.channel = none ∧ (∀ t : UTag, s.outstanding[t] = none) ∧
      ∀ d : Fin 4, s.drainTags[d] = none := by
  have drains : (([0, 1, 2, 3] : List (Fin 4)).all fun d => s.drainTags[d].isNone) = true ↔
      ∀ d : Fin 4, s.drainTags[d] = none := by
    simp only [List.all_eq_true, Option.isNone_iff_eq_none]
    exact ⟨fun h d => h d (mem_allGroups d), fun h d _ => h d⟩
  have tags : (allTags.all fun t => s.outstanding[t].isNone) = true ↔ ∀ t : UTag, s.outstanding[t] = none := by
    simp only [List.all_eq_true, Option.isNone_iff_eq_none]
    exact ⟨fun h t => h t (mem_allTags t), fun h t _ => h t⟩
  unfold State.pathEmpty
  rw [Bool.and_eq_true, Bool.and_eq_true, Bool.and_eq_true, drains, tags, List.isEmpty_iff, Option.isNone_iff_eq_none]
  tauto

/-- Work left on the path, as the statements list it. -/
theorem pathEmpty_eq_false {s : State} (h : s.forwardQueue ≠ [] ∨ s.channel ≠ none ∨
    (∃ t : UTag, s.outstanding[t] ≠ none) ∨ ∃ d : Fin 4, s.drainTags[d] ≠ none) : s.pathEmpty = false := by
  rw [Bool.eq_false_iff, Ne, pathEmpty_iff]
  rintro ⟨hf, hc, ho, hd⟩
  rcases h with h | h | ⟨t, h⟩ | ⟨d, h⟩
  · exact h hf
  · exact h hc
  · exact h (ho t)
  · exact h (hd d)

/-! ### The DRAIN_DONE records of the last step (R99) -/

theorem abandon_none {s : State} {g : GroupId} (h : s.groups[g].slot = none) : s.abandon g = s := by
  unfold State.abandon
  rw [h]

theorem abandon_some {s : State} {g : GroupId} {sl : SealedSlot} (h : s.groups[g].slot = some sl) :
    s.abandon g = s.reportDone g sl (sl.written + sl.failed != sl.entries) := by
  unfold State.abandon
  rw [h]

theorem abandon_eq (s : State) (g : GroupId) :
    s.abandon g = { s with log := (s.abandon g).log, events := (s.abandon g).events } := by
  cases h : s.groups[g].slot with
  | none => rw [abandon_none h]
  | some sl =>
    rw [abandon_some h]
    exact reportDone_eq _ _ _ _

theorem foldl_abandon_eq (l : List GroupId) (s : State) :
    l.foldl State.abandon s =
      { s with log := (l.foldl State.abandon s).log, events := (l.foldl State.abandon s).events } := by
  induction l generalizing s with
  | nil => rfl
  | cons g l ih =>
    rw [List.foldl_cons, ih]
    rw [abandon_eq]

/-- One group's DRAIN_DONE record of the last step, by the slots of s: abandoned unless every entry was answered
(R98, R99). -/
def State.abandonRecord (s u : State) (g : GroupId) : State :=
  match s.groups[g].slot with
  | none => u
  | some sl => u.logRecord g s.now
      (.drainDone sl.gen sl.written sl.failed (decide (sl.written + sl.failed ≠ sl.entries)) sl.elapsed)

theorem abandon_log {s u v : State} (hg : v.groups = s.groups) (ht : v.timebase = s.timebase) (hl : v.log = u.log)
    (g : GroupId) : (v.abandon g).log = (s.abandonRecord u g).log := by
  have slots : v.groups[g].slot = s.groups[g].slot := by rw [hg]
  have now : v.now = s.now := by
    unfold State.now
    rw [ht]
  unfold State.abandonRecord
  cases h : s.groups[g].slot with
  | none =>
    rw [abandon_none (slots.trans h)]
    exact hl
  | some sl =>
    have open_ : (sl.written + sl.failed != sl.entries) = decide (sl.written + sl.failed ≠ sl.entries) := by
      rw [Bool.eq_iff_iff, bne_iff_ne, decide_eq_true_eq]
    dsimp only
    rw [abandon_some (slots.trans h), ← open_, ← now]
    exact logRecord_log_congr hl _ _ _

/-- The records of the last step, one for each occupied slot in ascending order. -/
theorem foldl_abandon_log (l : List GroupId) {s u v : State} (hg : v.groups = s.groups) (ht : v.timebase = s.timebase)
    (hl : v.log = u.log) : (l.foldl State.abandon v).log = (l.foldl s.abandonRecord u).log := by
  induction l generalizing u v with
  | nil => exact hl
  | cons g l ih =>
    refine ih ?_ ?_ (abandon_log hg ht hl g)
    · rw [abandon_eq]
      exact hg
    · rw [abandon_eq]
      exact ht

theorem counter_abandon (s : State) (g : GroupId) {c : Counter} (h : c ≠ .logLostTotal) :
    (s.abandon g).counter c = s.counter c := by
  cases hs : s.groups[g].slot with
  | none => rw [abandon_none hs]
  | some sl =>
    rw [abandon_some hs]
    exact counter_logRecord_ne s g s.now _ h

theorem counter_foldl_abandon (l : List GroupId) (s : State) {c : Counter} (h : c ≠ .logLostTotal) :
    (l.foldl State.abandon s).counter c = s.counter c := by
  induction l generalizing s with
  | nil => rfl
  | cons g l ih => rw [List.foldl_cons, ih, counter_abandon s g h]

theorem flagSet_abandon_of_set {s : State} (g : GroupId) {f : Flag} (h : s.flagSet f = true) :
    (s.abandon g).flagSet f = true := by
  cases hs : s.groups[g].slot with
  | none =>
    rw [abandon_none hs]
    exact h
  | some sl =>
    rw [abandon_some hs]
    exact flagSet_raise_of_set _ _ _ (flagSet_logRecord_of_set _ _ _ _ _ h)

theorem flagSet_foldl_abandon_of_set (l : List GroupId) {s : State} {f : Flag} (h : s.flagSet f = true) :
    (l.foldl State.abandon s).flagSet f = true := by
  induction l generalizing s with
  | nil => exact h
  | cons g l ih => exact ih (flagSet_abandon_of_set g h)

/-- DONE(g) of every occupied slot (R99). -/
theorem flagSet_foldl_abandon_done {l : List GroupId} {s : State} {g : GroupId} (hg : g ∈ l)
    (h : s.groups[g].slot ≠ none) : (l.foldl State.abandon s).flagSet (.done g) = true := by
  induction l generalizing s with
  | nil => nomatch hg
  | cons k l ih =>
    rcases List.mem_cons.1 hg with rfl | hg
    · obtain ⟨sl, hs⟩ := Option.ne_none_iff_exists'.1 h
      refine flagSet_foldl_abandon_of_set l ?_
      rw [abandon_some hs]
      exact flagSet_raise_self _ _
    · refine ih hg (s := s.abandon k) ?_
      rw [abandon_eq]
      exact h

/-! ### The last step (R43, R99, R149) -/

/-- The last step up to its end: the pool emptied with its OPEN entries counted, the records made. -/
def State.abandoned (s : State) : State :=
  allGroups.foldl State.abandon { allGroups.foldl State.discardOpen s with pool := [] }

theorem abandoned_eq (s : State) :
    s.abandoned = { s with pool := [], log := s.abandoned.log, events := s.abandoned.events } := by
  unfold State.abandoned
  rw [foldl_abandon_eq, foldl_discardOpen_eq]

theorem abandoned_log (s : State) : s.abandoned.log = (allGroups.foldl s.abandonRecord s).log := by
  refine foldl_abandon_log allGroups ?_ ?_ ?_ <;> rw [foldl_discardOpen_eq]

/-- What the last step leaves of s. -/
structure LastStepLeaves (s t : State) : Prop where
  quiescing : t.quiescing = false
  quiesced : t.flagSet .quiesced = true
  pool : t.pool = []
  ready : t.ready = []
  groups : ∀ g : GroupId, t.groups[g] = s.groups[g].quiesced
  regions : ∀ r : RegionId, t.regions[r] = s.regions[r].quiesced
  done : ∀ g : GroupId, s.groups[g].slot ≠ none → t.flagSet (.done g) = true
  kept : ∀ f : Flag, s.flagSet f = true → t.flagSet f = true
  discarded : ∀ g : GroupId, t.counter (.discarded g) = satAdd (s.counter (.discarded g)) (s.openCount g)
  counter : ∀ c : Counter, c ≠ .logLostTotal → (∀ g, c ≠ .discarded g) → t.counter c = s.counter c
  log : t.log = (allGroups.foldl s.abandonRecord s).log
  rest : t = { s with quiescing := t.quiescing, pool := t.pool, ready := t.ready, groups := t.groups,
                      regions := t.regions, log := t.log, events := t.events }

theorem flagSet_endQuiesce (s : State) (f : Flag) :
    s.endQuiesce.flagSet f = (s.flagSet f || decide (f = .quiesced)) :=
  flagSet_raise
    { s with
      ready := []
      groups := Vector.ofFn fun g => s.groups[g].quiesced
      regions := Vector.ofFn fun r => s.regions[r].quiesced } .quiesced f

theorem flagSet_abandoned_done {s : State} {g : GroupId} (h : s.groups[g].slot ≠ none) :
    s.abandoned.flagSet (.done g) = true := by
  refine flagSet_foldl_abandon_done (mem_allGroups g) ?_
  rw [foldl_discardOpen_eq]
  exact h

theorem flagSet_abandoned_of_set {s : State} {f : Flag} (h : s.flagSet f = true) : s.abandoned.flagSet f = true :=
  flagSet_foldl_abandon_of_set allGroups ((foldl_discardOpen_flagSet allGroups s f).trans h)

theorem counter_abandoned (s : State) {c : Counter} (h : c ≠ .logLostTotal) :
    s.abandoned.counter c = (allGroups.foldl State.discardOpen s).counter c :=
  counter_foldl_abandon allGroups { allGroups.foldl State.discardOpen s with pool := [] } h

theorem lastStep_leaves (s : State) : LastStepLeaves s s.lastStep := by
  have unfolded : s.lastStep = s.abandoned.endQuiesce := rfl
  have frame := abandoned_eq s
  have log := abandoned_log s
  have done := fun g => flagSet_abandoned_done (s := s) (g := g)
  have kept := fun f => flagSet_abandoned_of_set (s := s) (f := f)
  have discarded : ∀ g : GroupId, s.abandoned.counter (.discarded g) =
      satAdd (s.counter (.discarded g)) (s.openCount g) := fun g => by
    rw [counter_abandoned s (by simp), foldl_discardOpen_counter allGroups_nodup, if_pos (mem_allGroups g)]
  have counter : ∀ c : Counter, c ≠ .logLostTotal → (∀ g, c ≠ .discarded g) → s.abandoned.counter c = s.counter c :=
    fun c h1 h2 => (counter_abandoned s h1).trans (foldl_discardOpen_counter_ne allGroups s h2)
  rw [unfolded]
  generalize s.abandoned = v at *
  refine ⟨rfl, ?_, ?_, rfl, fun g => ?_, fun r => ?_, fun g h => ?_, fun f h => ?_, discarded, counter, log, ?_⟩
  · rw [flagSet_endQuiesce, decide_eq_true rfl, Bool.or_true]
  · show v.pool = []
    rw [frame]
  · rw [endQuiesce_group, frame]
  · rw [endQuiesce_region, frame]
  · rw [flagSet_endQuiesce, done g h, Bool.true_or]
  · rw [flagSet_endQuiesce, kept f h, Bool.true_or]
  · rw [frame]
    rfl

theorem exec_quiesceEnd_waits {s : State} (h : s.pathEmpty = false) : exec .quiesceEnd s = .next s :=
  if_neg (by rw [h, Bool.and_false]; exact Bool.false_ne_true)

theorem exec_quiesceEnd_ends {s : State} (hr : s.inReset = false) (hq : s.quiescing = true) (h : s.pathEmpty = true) :
    exec .quiesceEnd s = .next s.lastStep :=
  if_pos (by rw [hr, hq, h]; rfl)

theorem quiesced_region_eq (r : Region) :
    r.quiesced = { r with state := if r.state = .retireWait ∨ r.state = .retireDrain then .off else r.state } := by
  unfold Region.quiesced
  split <;> rfl

/-! ### The first step (R42, R147) -/

/-- The state after the first step: quiescing, a stalled write refused. -/
theorem refuseStalled_of_none {s : State} (h : s.stall = none) : s.refuseStalled = s := by
  unfold State.refuseStalled
  rw [h]

theorem refuseStalled_of_some {s : State} {w : StalledWrite} (h : s.stall = some w) :
    s.refuseStalled = ({ s with stall := none } : State).refuseWrite w.tag := by
  unfold State.refuseStalled
  rw [h]

theorem refuseStalled_eq (s : State) :
    s.refuseStalled = { s with stall := none, responses := s.refuseStalled.responses, events := s.refuseStalled.events } := by
  cases h : s.stall with
  | none =>
    rw [refuseStalled_of_none h, ← h]
  | some w =>
    rw [refuseStalled_of_some h]
    rfl

end Sys2Proof.Machine

namespace Sys2Proof.Proofs

open Sys2Proof.Machine

/-- Settles O53: the last step on an empty path, and on no other. -/
theorem lastStepEndsTheQuiesce : Obligations.LastStepEndsTheQuiesce := by
  intro s hr hq
  refine ⟨fun h => exec_quiesceEnd_waits (pathEmpty_eq_false h), fun hf hc ho hd => ?ends⟩
  case ends =>
    have L := lastStep_leaves s
    have run := exec_quiesceEnd_ends hr hq ((pathEmpty_iff s).2 ⟨hf, hc, ho, hd⟩)
    generalize s.lastStep = t at L run
    refine ⟨t, run, L.quiescing, L.quiesced, L.pool, L.ready, L.groups, L.done, L.discarded,
      fun r => (L.regions r).trans (quiesced_region_eq _), L.log, ?_, ?_, ?_, ?_, ?_, ?_, ?_, ?_⟩ <;> rw [L.rest]

/-- Settles O52: the first step, and the last with it where nothing is left on the path. -/
theorem datapathResetBeginsAQuiesce : Obligations.DatapathResetBeginsAQuiesce := by
  intro s u a hs
  refine ⟨fun hq => exec_refused hs rfl (if_pos hq), fun hq hu => ?_⟩
  have begun : u = State.refuseStalled { s with quiescing := true } := by
    rw [hu]
    split
    · rename_i h
      exact (refuseStalled_of_none (s := { s with quiescing := true }) h).symm
    · rename_i w h
      exact (refuseStalled_of_some (s := { s with quiescing := true }) h).symm
  have frame := refuseStalled_eq { s with quiescing := true }
  rw [← begun] at frame
  have path : u.pathEmpty = s.pathEmpty := by
    rw [frame]
    rfl
  have taken : s.takeDatapathReset = (if u.pathEmpty then u.lastStep else u).acted := by
    rw [begun]
    exact if_neg (by rw [hq]; exact Bool.false_ne_true)
  refine ⟨fun h => ?waits, fun hf hc ho hd => ?ends⟩
  case waits =>
    refine exec_accepted hs rfl (taken.trans ?_)
    rw [path, pathEmpty_eq_false h]
    rfl
  case ends =>
    have empty : u.pathEmpty = true := path.trans ((pathEmpty_iff s).2 ⟨hf, hc, ho, hd⟩)
    have awake : u.inReset = false := by
      rw [frame]
      exact ((fresh_iff s).1 hs).1
    have quiet : u.quiescing = true := by rw [frame]
    have L := lastStep_leaves u
    rw [if_pos empty] at taken
    have run := exec_quiesceEnd_ends awake quiet empty
    generalize u.lastStep = t at L run taken
    refine ⟨t, run, exec_accepted hs rfl taken, L.quiescing, ?_, ?_, L.quiesced, fun hst => ?refused, L.pool, L.ready,
      fun g => ?_, ?_, ?_⟩
    · rw [L.rest, frame]
    · rw [L.rest]
    case refused =>
      obtain ⟨w, hw⟩ := Option.ne_none_iff_exists'.1 hst
      rw [refuseStalled_of_some (s := { s with quiescing := true }) hw] at begun
      refine ⟨?_, L.kept _ ?_⟩
      · rw [L.counter _ (by simp) (by simp), begun]
        exact counter_bump_self _ _ _
      · rw [begun]
        exact flagSet_raise_self _ _
    · rw [L.groups]
      rfl
    · rw [L.rest, frame]
    · rw [L.rest, frame]

end Sys2Proof.Proofs

/-! DISCARD with the retry it may make (O48), and REGION_ENABLE and REGION_RETIRE (O49). -/

namespace Sys2Proof.Machine

/-! ### DISCARD (R38) -/

theorem mem_namedGroups (m : Byte) (g : GroupId) : g ∈ namedGroups m ↔ m.getLsbD g = true := by
  unfold namedGroups
  rw [List.mem_filter]
  exact and_iff_right (mem_allGroups g)

theorem namedGroups_nodup (m : Byte) : (namedGroups m).Nodup := allGroups_nodup.filter _

/-- The named groups' OPEN entries freed, before the retry (R38). -/
def State.discarding (s : State) (m : Byte) : State := (namedGroups m).foldl State.discardOpen s

theorem discarding_eq (s : State) (m : Byte) :
    s.discarding m = { s with pool := (s.discarding m).pool, events := (s.discarding m).events } :=
  foldl_discardOpen_eq _ s

theorem discarding_pool (s : State) (m : Byte) :
    (s.discarding m).pool = s.pool.filter fun e => !(decide (e.role = .opened) && m.getLsbD e.group.val) := by
  refine (foldl_discardOpen_pool _ s).trans (List.filter_congr fun e _ => ?_)
  rw [Bool.eq_iff_iff]
  simp [mem_namedGroups]

theorem discarding_counter (s : State) (m : Byte) (g : GroupId) :
    (s.discarding m).counter (.discarded g) =
      if m.getLsbD g.val then satAdd (s.counter (.discarded g)) (s.openCount g)
      else s.counter (.discarded g) := by
  refine (foldl_discardOpen_counter (namedGroups_nodup m) s g).trans ?_
  simp only [mem_namedGroups]

/-! ### A retry, case by case (R10, R33) -/

theorem retry_off {s : State} {w : StalledWrite} (hw : s.stall = some w) (hr : s.regions[w.region].state = .off) :
    s.retry = s.forwardStalled w := retry_of_judge (judge_off hw hr)

theorem retry_retireDrain {s : State} {w : StalledWrite} (hw : s.stall = some w)
    (hr : s.regions[w.region].state = .retireDrain) :
    s.retry = { s with stall := some { w with cause := .retireDrain } } := retry_of_judge (judge_retireDrain hw hr)

theorem retry_placed {s t : State} {w : StalledWrite} (hw : s.stall = some w)
    (hr : s.regions[w.region].state = .staging ∨ s.regions[w.region].state = .retireWait)
    (ho : s.offer s.regions[w.region].group w.addr w.size w.data = some t) :
    s.retry = ({ t with stall := none } : State).respond w.tag .ok none := retry_of_judge (judge_placed hw hr ho)

/-- A retry that fails and whose group asks for no seal, or cannot have one, leaves the write waiting (R29, R75). -/
theorem retry_waits {s : State} {w : StalledWrite} {g : GroupId} (hw : s.stall = some w)
    (hg : s.regions[w.region].group = g)
    (hr : s.regions[w.region].state = .staging ∨ s.regions[w.region].state = .retireWait)
    (hf : s.findEntry g .opened (doubleword w.addr) = none)
    (hfull : 64 ≤ s.pool.length ∨ s.groups[g].quota ≤ s.openCount g)
    (h : s.groups[g].pressureSeal = false ∨ s.openCount g = 0 ∨ s.hold.state = .held ∨ s.quiescing = true ∨
      s.groups[g].slot ≠ none) : s.retry = s := by
  subst hg
  rw [retry_failed hw hr (offer_fails _ _ hf hfull)]
  split
  · rename_i wants
    simp only [State.wantsPressure, Bool.and_eq_true, decide_eq_true_eq] at wants
    refine pressureRequest_idle (Bool.eq_false_iff.2 fun can => ?_)
    obtain ⟨hh, hq, hs⟩ := (canSeal_iff _ _).1 can
    rcases h with h | h | h | h | h
    · exact absurd (h.symm.trans wants.1) nofun
    · omega
    · exact hh h
    · exact absurd (h.symm.trans hq) nofun
    · exact h hs
  · rfl

/-! ### Regions (R11, R12) -/

theorem overlaps_iff (r q : Region) : r.overlaps q = true ↔
    ∃ n : Nat, (r.base.toNat ≤ n ∧ n < r.base.toNat + 2 ^ r.sizeCode) ∧
      q.base.toNat ≤ n ∧ n < q.base.toNat + 2 ^ q.sizeCode := by
  unfold Region.overlaps
  have hr := Nat.two_pow_pos r.sizeCode
  have hq := Nat.two_pow_pos q.sizeCode
  generalize 2 ^ r.sizeCode = m at hr
  generalize 2 ^ q.sizeCode = k at hq
  simp only [Bool.and_eq_true, decide_eq_true_eq]
  constructor
  · rintro ⟨h1, h2⟩
    exact ⟨max r.base.toNat q.base.toNat, by omega⟩
  · rintro ⟨n, h⟩
    omega

section
variable {s : State} {i : Byte} {r : RegionId}

theorem takeRegionEnable_unnamed (h : 8 ≤ i.toNat) : s.takeRegionEnable i = s.refuse .nakRange := dif_neg (by omega)

theorem takeRegionRetire_unnamed (h : 8 ≤ i.toNat) : s.takeRegionRetire i = s.refuse .nakRange := dif_neg (by omega)

theorem takeRegionEnable_named (h : i.toNat = r.val) :
    s.takeRegionEnable i =
      if s.quiescing then s.refuse .nakBusy
      else if s.regions[r].state ≠ .off then s.refuse .nakState
      else if allRegions.any fun q => s.regions[q].active && s.regions[r].overlaps s.regions[q] then
        s.refuse .nakOverlap
      else (s.modRegion r fun x => { x with state := .staging }).acted := by
  obtain ⟨r, hr⟩ := r
  obtain rfl : i.toNat = r := h
  exact dif_pos hr

theorem takeRegionRetire_named (h : i.toNat = r.val) :
    s.takeRegionRetire i =
      if s.quiescing then s.refuse .nakBusy
      else if s.regions[r].state ≠ .staging then s.refuse .nakState
      else if s.held then s.refuse .nakState
      else ((s.modRegion r fun x => { x with state := .retireWait }).retireRequest s.regions[r].group).acted := by
  obtain ⟨r, hr⟩ := r
  obtain rfl : i.toNat = r := h
  exact dif_pos hr

end

/-- Another active window in the way of the region's (R11). -/
theorem any_overlaps_iff (s : State) (r : RegionId) :
    (allRegions.any fun q => s.regions[q].active && s.regions[r].overlaps s.regions[q]) = true ↔
      ∃ q : RegionId, s.regions[q].state ≠ .off ∧ s.regions[r].overlaps s.regions[q] = true := by
  rw [List.any_eq_true]
  constructor
  · rintro ⟨q, -, h⟩
    rw [Bool.and_eq_true] at h
    exact ⟨q, bne_iff_ne.1 h.1, h.2⟩
  · rintro ⟨q, h1, h2⟩
    exact ⟨q, mem_allRegions q, by rw [Bool.and_eq_true]; exact ⟨bne_iff_ne.2 h1, h2⟩⟩

theorem sealGroup_pool (s : State) (g : GroupId) (c : SealCause) (ts : Stamp) :
    (s.sealGroup g c ts).pool = s.pool.map fun e =>
      if e.group = g ∧ e.role = .opened then { e with role := .sealed, issued := false } else e := by
  rw [sealGroup_eq]
  exact takeSeal_pool s g c

theorem retireRequest_seals {s : State} {g : GroupId} (hh : s.hold.state ≠ .held) (hq : s.quiescing = false)
    (hs : s.groups[g].slot = none) : s.retireRequest g = s.sealFull g .retire s.now := by
  have awake : (s.held || s.quiescing) = false := by
    rw [hq]
    simpa [State.held] using hh
  unfold State.retireRequest
  rw [awake, hs]
  rfl

theorem retireRequest_waits {s : State} {g : GroupId} {sl : SealedSlot} (hh : s.hold.state ≠ .held)
    (hq : s.quiescing = false) (hs : s.groups[g].slot = some sl) :
    s.retireRequest g = s.modGroup g fun x => { x with pendingRetire := true } := by
  have awake : (s.held || s.quiescing) = false := by
    rw [hq]
    simpa [State.held] using hh
  unfold State.retireRequest
  rw [awake, hs]
  rfl

end Sys2Proof.Machine

namespace Sys2Proof.Proofs

open Sys2Proof.Machine

/-- Settles O48: the discards and their count, and a retry by the state of the stalled write's region. -/
theorem discardFreesNamedGroups : Obligations.DiscardFreesNamedGroups := by
  refine ⟨fun s m hs => ⟨fun hm => ?_, fun hm hq => ?_, fun hm hq => ?discards⟩, fun u h => retry_of_empty h,
    fun u w g hw hg => ⟨fun hr => ?_, fun hr => retry_retireDrain hw hr, fun hr => ⟨fun hf => ?merges, ?allocates, ?fails⟩⟩⟩
  · exact exec_refused hs rfl (if_pos hm)
  · exact exec_refused hs rfl ((if_neg (by omega)).trans (if_pos hq))
  case discards =>
    have frame := discarding_eq s m
    refine ⟨s.discarding m, ?_, discarding_pool s m, discarding_counter s m, ?_, ?_, ?_, ?_, ?_,
      foldl_discardOpen_flags _ s, ?_, ?_⟩
    · exact exec_accepted hs rfl ((if_neg (by omega)).trans (if_neg (by rw [hq]; exact Bool.false_ne_true)))
    all_goals rw [frame]
  · exact retry_off hw hr
  case merges =>
    obtain ⟨e, he⟩ := Option.ne_none_iff_exists'.1 hf
    subst hg
    exact retry_placed hw hr (offer_merges w.size w.data he)
  case allocates =>
    intro hf hlen hquota
    subst hg
    exact retry_placed hw hr (offer_allocates w.size w.data hf hlen hquota)
  case fails =>
    intro hf hfull
    exact ⟨fun h => retry_waits hw hg hr hf hfull h,
      fun hp hn hh hq hs => retry_pressure_leaves hw hg hr hf hfull hp hn hh hq hs⟩

/-- Settles O49: R11's and R12's tests in their order, and the three ends of a retire. -/
theorem regionsEnabledAndRetired : Obligations.RegionsEnabledAndRetired := by
  refine ⟨overlaps_iff, fun s i hs => ⟨fun hi => ⟨?_, ?_⟩, fun r hi => ⟨fun hq => ⟨?_, ?_⟩, fun hq => ?quiet⟩⟩⟩
  · exact exec_refused hs rfl (takeRegionEnable_unnamed hi)
  · exact exec_refused hs rfl (takeRegionRetire_unnamed hi)
  · exact exec_refused hs rfl ((takeRegionEnable_named hi).trans (if_pos hq))
  · exact exec_refused hs rfl ((takeRegionRetire_named hi).trans (if_pos hq))
  case quiet =>
    have busy : ¬ s.quiescing = true := by rw [hq]; exact Bool.false_ne_true
    have enable : s.hand (.regionEnable i) = _ := (takeRegionEnable_named hi).trans (if_neg busy)
    have retire : s.hand (.regionRetire i) = _ := (takeRegionRetire_named hi).trans (if_neg busy)
    have retires : s.regions[r].state = .staging → s.hold.state ≠ .held → s.hand (.regionRetire i) =
        ((s.modRegion r fun x => { x with state := .retireWait }).retireRequest s.regions[r].group).acted :=
      fun hr hh => retire.trans ((if_neg (not_not_intro hr)).trans (if_neg (by simpa [State.held] using hh)))
    have pool : (s.modRegion r fun x => { x with state := .retireWait }).openCount s.regions[r].group =
        s.openCount s.regions[r].group := rfl
    have waiting : (s.modRegion r fun x => { x with state := .retireWait }).regions[r] =
        { s.regions[r] with state := .retireWait } := by
      rw [modRegion_get, if_pos rfl]
    refine ⟨fun hr => ?_, fun hr ho => ?_, fun hr ho => ?_, fun hr => ?_, fun hr hh => ?_, fun sl hr hh hsl => ?_,
      fun hr hh hsl hn hst => ?empty, fun hr hh hsl hn hst => ?entries⟩
    · exact exec_refused hs rfl (enable.trans (if_pos hr))
    · exact exec_refused hs rfl (enable.trans ((if_neg (not_not_intro hr)).trans (if_pos ((any_overlaps_iff s r).2 ho))))
    · refine exec_accepted hs rfl (enable.trans ((if_neg (not_not_intro hr)).trans (if_neg fun h => ?_)))
      obtain ⟨q, h1, h2⟩ := (any_overlaps_iff s r).1 h
      exact absurd ((ho q h1).symm.trans h2) nofun
    · exact exec_refused hs rfl (retire.trans (if_pos hr))
    · exact exec_refused hs rfl (retire.trans ((if_neg (not_not_intro hr)).trans (if_pos (by rw [State.held, hh]; rfl))))
    · refine exec_accepted hs rfl ((retires hr hh).trans ?_)
      rw [retireRequest_waits (s := s.modRegion r fun x => { x with state := .retireWait }) hh hq hsl]
      rfl
    case empty =>
      have run := (retires hr hh).trans (congrArg State.acted (retireRequest_seals
        (s := s.modRegion r fun x => { x with state := .retireWait }) hh hq hsl))
      have L := sealFull_leaves_empty (s := s.modRegion r fun x => { x with state := .retireWait }) (c := .retire)
        s.now hn hst (.inl rfl) hq
      change s.hand (.regionRetire i) = (State.sealFull _ _ _ s.now).acted at run
      generalize State.sealFull _ _ _ s.now = t at run L
      refine ⟨_, exec_accepted hs rfl run, rfl, L.replied _ _, ?_, ?_, ?_, ?_, L.done, L.pool⟩
      · show t.regions[r].state = .off
        rw [L.regions, waiting, if_pos ⟨rfl, .inl rfl⟩]
      · show t.groups[s.regions[r].group].slot = none
        rw [L.group]
      · show t.groups[s.regions[r].group].openGen = _
        rw [L.group]
        rfl
      · show t.groups[s.regions[r].group].pendingRetire = false
        rw [L.group]
    case entries =>
      have run := (retires hr hh).trans (congrArg State.acted (retireRequest_seals
        (s := s.modRegion r fun x => { x with state := .retireWait }) hh hq hsl))
      have full := sealFull_of_entries (s := s.modRegion r fun x => { x with state := .retireWait }) .retire s.now hn hst
      change s.hand (.regionRetire i) = (State.sealFull _ _ _ s.now).acted at run
      rw [full] at run
      have L := sealGroup_leaves (s := s.modRegion r fun x => { x with state := .retireWait }) .retire s.now hn hq
      have tpool := sealGroup_pool (s.modRegion r fun x => { x with state := .retireWait }) s.regions[r].group
        .retire s.now
      generalize State.sealGroup _ _ _ s.now = t at run L tpool
      refine ⟨_, exec_accepted hs rfl run, rfl, ?_, L.replied _ _, tpool⟩
      show t.regions[r].state = .retireDrain
      rw [L.regions, waiting, if_pos ⟨rfl, rfl⟩]

end Sys2Proof.Proofs

/-! PUBLISH (O47): the MANUAL seals of the named groups compose in whatever order (log 2), and the seal of one group in
all its records. -/

namespace Sys2Proof.Machine

/-! ### One MANUAL seal, read of an earlier state -/

/-- What a MANUAL seal has made of its group, read of the state s of the request (R74, R77, R81, R83). -/
structure ManualOutcome (s t : State) (g : GroupId) : Prop where
  full : 0 < s.openCount g → t.counter (.seals g) = satAdd (s.counter (.seals g)) 1 ∧
    ∃ p : SlotPhase, (p = .fenced ↔ 0 < s.fenceMembers g) ∧ t.groups[g] =
      { s.groups[g] with
        slot := some { phase := p, gen := s.groups[g].openGen, entries := s.openCount g,
                       fence := s.fenceMembers g, written := 0, failed := 0, elapsed := 0 }
        openGen := s.groups[g].openGen + 1, dividerCount := 0 }
  empty : s.openCount g = 0 → s.groups[g].pendingRetire = false →
    t.counter (.seals g) = satAdd (s.counter (.seals g)) 1 ∧ t.flagSet (.done g) = true ∧ t.groups[g] =
      { s.groups[g] with slot := none, openGen := s.groups[g].openGen + 1, dividerCount := 0 }
  pend : s.openCount g = 0 → s.groups[g].pendingRetire = true →
    t.counter (.seals g) = satAdd (satAdd (s.counter (.seals g)) 1) 1 ∧ t.flagSet (.done g) = true ∧
    t.groups[g] =
      { s.groups[g] with
        slot := none, openGen := s.groups[g].openGen + 1 + 1, dividerCount := 0, pendingRetire := false }

/-- The outcome of a seal made after others, where they left what it reads. -/
theorem ManualSealLeaves.outcome {s t u : State} {g : GroupId} (h : ManualSealLeaves t u g)
    (groups : t.groups[g] = s.groups[g]) (opens : t.openCount g = s.openCount g)
    (fence : t.fenceMembers g = s.fenceMembers g) (counter : t.counter (.seals g) = s.counter (.seals g)) :
    ManualOutcome s u g := by
  obtain ⟨-, -, full, empty, pend⟩ := h
  rw [groups, opens, counter] at full empty pend
  rw [fence] at full
  exact ⟨full, empty, pend⟩

/-- A later seal of another group leaves the outcome, the slot READY at the head draining at most (R90). -/
theorem ManualOutcome.keep {s t u : State} {g h : GroupId} (o : ManualOutcome s t g) (k : SealKeeps t u h)
    (hne : g ≠ h) : ManualOutcome s u g := by
  obtain ⟨counter, advanced⟩ := k.others g hne
  refine ⟨fun hn => ?_, fun hn hp => ?_, fun hn hp => ?_⟩
  · obtain ⟨seals, p, hp, group⟩ := o.full hn
    refine ⟨counter.trans seals, ?_⟩
    rcases advanced with same | ⟨ready, drains⟩
    · exact ⟨p, hp, same.trans group⟩
    · rw [group] at ready drains
      have ready : p = .ready := Option.some.inj ready
      refine ⟨.draining, ⟨nofun, fun hf => ?_⟩, drains⟩
      exact absurd (ready.symm.trans (hp.2 hf)) nofun
  · obtain ⟨seals, done, group⟩ := o.empty hn hp
    exact ⟨counter.trans seals, k.flags g done, (advanced.none (by rw [group])).trans group⟩
  · obtain ⟨seals, done, group⟩ := o.pend hn hp
    exact ⟨counter.trans seals, k.flags g done, (advanced.none (by rw [group])).trans group⟩

/-! ### The groups of a PUBLISH, one after another -/

/-- What the MANUAL requests to the groups of l have left of s, with k the taken mask. -/
structure PublishLeaves (s t : State) (k : Byte) (l : List GroupId) : Prop where
  bits : ∀ j : Nat, k.getLsbD j = true ↔ ∃ g : GroupId, g.val = j ∧ g ∈ l ∧ s.groups[g].slot = none
  pool : t.pool = s.pool.map fun e => if k.getLsbD e.group.val = true ∧ e.role = .opened then
    { e with role := .sealed, issued := false } else e
  stall : t.stall = none
  responses : t.responses = s.responses
  timebase : t.timebase = s.timebase
  hold : t.hold = s.hold
  drainTags : t.drainTags = s.drainTags
  channel : t.channel = s.channel
  quiescing : t.quiescing = s.quiescing
  fence : ∀ g, k.getLsbD g.val = false → ∀ x, t.inFence g x = s.inFence g x
  others : ∀ g : GroupId, k.getLsbD g.val = false →
    t.counter (.seals g) = s.counter (.seals g) ∧ Group.Advanced s.groups[g] t.groups[g]
  taken : ∀ g : GroupId, k.getLsbD g.val = true → ManualOutcome s t g

theorem PublishLeaves.start {s : State} (h : s.stall = none) (n : Nat) : PublishLeaves s (s.drew n) 0 [] where
  bits j := by simp
  pool := by
    show s.pool = _
    refine ((List.map_congr_left fun e _ => ?_).trans (List.map_id _)).symm
    simp
  stall := h
  responses := rfl
  timebase := rfl
  hold := rfl
  drainTags := rfl
  channel := rfl
  quiescing := rfl
  fence _ _ _ := rfl
  others _ _ := ⟨rfl, .inl rfl⟩
  taken g h := by simp at h

theorem slot_none_of_advanced {a b : Group} (h : Group.Advanced a b) : b.slot = none ↔ a.slot = none := by
  rcases h with rfl | ⟨-, rfl⟩
  · rfl
  · exact Option.map_eq_none_iff

/-- A bit of the taken mask with a group's bit set. -/
theorem getLsbD_or_group (k : Byte) (g : GroupId) (j : Nat) :
    (k ||| BitVec.twoPow 8 g.val).getLsbD j = true ↔ k.getLsbD j = true ∨ j = g.val := by
  have := g.isLt
  rw [BitVec.getLsbD_or, BitVec.getLsbD_twoPow, Bool.or_eq_true, Bool.and_eq_true, decide_eq_true_eq, decide_eq_true_eq]
  constructor
  · rintro (h | ⟨-, h⟩)
    · exact .inl h
    · exact .inr h.symm
  · rintro (h | h)
    · exact .inl h
    · exact .inr ⟨by omega, h.symm⟩

/-- The request to one more group. -/
theorem PublishLeaves.step {s t : State} {k : Byte} {l : List GroupId} {g : GroupId} (h : PublishLeaves s t k l)
    (hg : g ∉ l) (hh : s.hold.state ≠ .held) (hq : s.quiescing = false) :
    PublishLeaves s (manualRequest (t, k) g).1 (manualRequest (t, k) g).2 (l ++ [g]) := by
  have untaken : k.getLsbD g.val = false := by
    rw [Bool.eq_false_iff]
    intro b
    obtain ⟨g', e, hl, -⟩ := (h.bits g.val).1 b
    exact hg (Fin.ext e ▸ hl)
  obtain ⟨counter, advanced⟩ := h.others g untaken
  have can : t.canSeal g = true ↔ s.groups[g].slot = none := by
    rw [canSeal_iff, h.hold, h.quiescing, slot_none_of_advanced advanced]
    exact ⟨fun c => c.2.2, fun c => ⟨hh, hq, c⟩⟩
  by_cases hs : s.groups[g].slot = none
  case neg =>
    have idle : manualRequest (t, k) g = (t, k) := if_neg fun c => hs (can.1 c)
    rw [idle]
    refine { h with bits := fun j => (h.bits j).trans ?_ }
    constructor
    · rintro ⟨x, e, hl, hx⟩
      exact ⟨x, e, List.mem_append_left _ hl, hx⟩
    · rintro ⟨x, e, hl, hx⟩
      rcases List.mem_append.1 hl with hl | hl
      · exact ⟨x, e, hl, hx⟩
      · obtain rfl := List.mem_singleton.1 hl
        exact absurd hx hs
  case pos =>
    have seals : manualRequest (t, k) g = (t.sealFull g .manual t.now, k ||| BitVec.twoPow 8 g) := if_pos (can.2 hs)
    have L := sealFull_manual (can.2 hs) h.stall
    have group : t.groups[g] = s.groups[g] := advanced.none hs
    have opens : t.openCount g = s.openCount g := by
      unfold State.openCount
      rw [h.pool, List.countP_map]
      refine List.countP_congr fun e _ => ?_
      by_cases hb : k.getLsbD e.group.val = true ∧ e.role = .opened
      · have other : e.group ≠ g := by
          rintro rfl
          exact absurd (hb.1.symm.trans untaken) nofun
        simp [Function.comp, hb, Entry.isOf, other]
      · simp only [Function.comp, if_neg hb]
    have fence := fenceMembers_congr (h.fence g untaken)
    have bit := getLsbD_or_group k g
    have clear : ∀ x : GroupId, (k ||| BitVec.twoPow 8 g.val).getLsbD x.val = false →
        k.getLsbD x.val = false ∧ x ≠ g := by
      intro x hx
      rw [Bool.eq_false_iff, Ne, bit] at hx
      exact ⟨Bool.eq_false_iff.2 fun b => hx (.inl b), fun e => hx (.inr (by rw [e]))⟩
    rw [seals]
    generalize t.sealFull g .manual t.now = u at L
    have K := L.keep
    refine ⟨fun j => ?bits, ?pool, K.stall h.stall, K.responses.trans h.responses, K.timebase.trans h.timebase,
      K.hold.trans h.hold, K.drainTags.trans h.drainTags, K.channel.trans h.channel, K.quiescing.trans h.quiescing,
      fun x hx y => ?fence, fun x hx => ?others, fun x hx => ?taken⟩
    case bits =>
      rw [bit, h.bits]
      constructor
      · rintro (⟨x, e, hl, hx⟩ | rfl)
        · exact ⟨x, e, List.mem_append_left _ hl, hx⟩
        · exact ⟨g, rfl, by simp, hs⟩
      · rintro ⟨x, e, hl, hx⟩
        rcases List.mem_append.1 hl with hl | hl
        · exact .inl ⟨x, e, hl, hx⟩
        · obtain rfl := List.mem_singleton.1 hl
          exact .inr e.symm
    case pool =>
      rw [L.pool, h.pool, List.map_map]
      refine List.map_congr_left fun e _ => ?_
      have both := bit e.group.val
      by_cases hb : k.getLsbD e.group.val = true ∧ e.role = .opened
      · have hb' : (k ||| BitVec.twoPow 8 g.val).getLsbD e.group.val = true ∧ e.role = .opened :=
          ⟨both.2 (.inl hb.1), hb.2⟩
        simp only [Function.comp, if_pos hb, if_pos hb']
        exact if_neg fun c => nomatch c.2
      · simp only [Function.comp, if_neg hb]
        refine if_congr ?_ rfl rfl
        rw [both]
        constructor
        · rintro ⟨rfl, ho⟩
          exact ⟨.inr rfl, ho⟩
        · rintro ⟨hk | hk, ho⟩
          · exact absurd ⟨hk, ho⟩ hb
          · exact ⟨Fin.ext hk, ho⟩
    case fence =>
      obtain ⟨hk, hne⟩ := clear x hx
      exact (K.fence x hne y).trans (h.fence x hk y)
    case others =>
      obtain ⟨hk, hne⟩ := clear x hx
      obtain ⟨c1, a1⟩ := h.others x hk
      obtain ⟨c2, a2⟩ := K.others x hne
      exact ⟨c2.trans c1, a1.trans a2⟩
    case taken =>
      by_cases hxg : x = g
      · subst hxg
        exact L.outcome group opens fence counter
      · have hk : k.getLsbD x.val = true := ((bit x.val).1 hx).resolve_right fun e => hxg (Fin.ext e)
        exact (h.taken x hk).keep K hxg

/-- The requests to all the groups of a list, each once. -/
theorem PublishLeaves.foldl {s t : State} {k : Byte} {l m : List GroupId} (h : PublishLeaves s t k l)
    (hnd : (l ++ m).Nodup) (hh : s.hold.state ≠ .held) (hq : s.quiescing = false) :
    PublishLeaves s (m.foldl manualRequest (t, k)).1 (m.foldl manualRequest (t, k)).2 (l ++ m) := by
  induction m generalizing t k l with
  | nil =>
    rw [List.append_nil]
    exact h
  | cons g m ih =>
    have fresh : g ∉ l := fun hl => (List.nodup_append.1 hnd).2.2 g hl g List.mem_cons_self rfl
    have next := h.step fresh hh hq
    have rest := ih next (by rw [List.append_assoc]; exact hnd)
    rw [List.append_assoc] at rest
    exact rest

/-- Under a hold no request seals (R72). -/
theorem foldl_manualRequest_held {s : State} (h : s.hold.state = .held) (l : List GroupId) (k : Byte) :
    l.foldl manualRequest (s, k) = (s, k) := by
  induction l with
  | nil => rfl
  | cons g l ih =>
    have idle : manualRequest (s, k) g = (s, k) := if_neg fun c => ((canSeal_iff s g).1 c).1 h
    rw [List.foldl_cons, idle, ih]

/-! ### Membership of a fence set (R86) -/

theorem inGroupWindow_iff (s : State) (g : GroupId) (a : Addr) : s.inGroupWindow g a = true ↔
    ∃ r : RegionId, s.regions[r].group = g ∧ s.regions[r].state ≠ .off ∧ s.regions[r].contains a = true := by
  unfold State.inGroupWindow
  rw [List.any_eq_true]
  simp only [Bool.and_eq_true, decide_eq_true_eq, and_assoc]
  constructor
  · rintro ⟨r, -, hg, ha, hc⟩
    exact ⟨r, hg, bne_iff_ne.1 ha, hc⟩
  · rintro ⟨r, hg, ha, hc⟩
    exact ⟨r, mem_allRegions r, hg, bne_iff_ne.2 ha, hc⟩

theorem inFence_iff (s : State) (g : GroupId) (x : UTag) : s.inFence g x = true ↔
    ∃ a : Addr, ((∃ q ∈ s.forwardQueue, q.tag = x ∧ q.addr = a) ∨ (∃ o, s.outstanding[x] = some o ∧ o.addr = a)) ∧
      ∃ r : RegionId, s.regions[r].group = g ∧ s.regions[r].state ≠ .off ∧ s.regions[r].contains a = true := by
  simp only [← inGroupWindow_iff]
  unfold State.inFence
  rw [Bool.or_eq_true, List.any_eq_true, Option.any_eq_true]
  simp only [Bool.and_eq_true, decide_eq_true_eq]
  constructor
  · rintro (⟨q, hq, rfl, hw⟩ | ⟨o, ho, hw⟩)
    · exact ⟨_, .inl ⟨q, hq, rfl, rfl⟩, hw⟩
    · exact ⟨_, .inr ⟨o, ho, rfl⟩, hw⟩
  · rintro ⟨a, ⟨q, hq, rfl, rfl⟩ | ⟨o, ho, rfl⟩, hw⟩
    · exact .inl ⟨q, hq, rfl, hw⟩
    · exact .inr ⟨o, ho, hw⟩

/-! ### One named group -/

/-- A MANUAL seal up to its retry of the stall slot (R81). -/
def State.sealManual (s : State) (g : GroupId) : State :=
  if s.openCount g = 0 then (s.sealGroup g .manual s.now).completeEmpty g fun u => u.offerPendingLast g
  else s.sealGroup g .manual s.now

theorem sealFull_eq_retry (s : State) (g : GroupId) : s.sealFull g .manual s.now = (s.sealManual g).retry := rfl

theorem sealManual_of_entries {s : State} {g : GroupId} (h : 0 < s.openCount g) :
    s.sealManual g = s.sealGroup g .manual s.now := if_neg (by omega)

/-- The seal of an empty generation with no retire seal pending behind it, whatever stands in the stall slot (R83). -/
theorem sealManual_of_empty {s : State} {g : GroupId} (hn : s.openCount g = 0) (hp : s.groups[g].pendingRetire = false)
    (hq : s.quiescing = false) :
    EmptySealLeaves s (s.sealManual g) g .manual s.now ∧ (s.sealManual g).stall = s.stall ∧
      (s.sealManual g).responses = s.responses := by
  have sealed := sealGroup_emptySealed .manual s.now hn
  have responses : ((s.sealGroup g .manual s.now).finish g).responses = s.responses :=
    (finish_sealGroup_empty .manual s.now hn).keep.responses
  have unfolded : s.sealManual g =
      (((s.sealGroup g .manual s.now).finish g).offerPendingLast g).startDrain := if_pos hn
  rw [unfolded]
  generalize s.sealGroup g .manual s.now = v at sealed responses
  have finished := finish_finished (v := v) (g := g) (sl := s.newSlot g) (by rw [sealed.group]; rfl)
  generalize v.finish g = u at finished responses
  obtain ⟨none_, L⟩ := completed_empty sealed finished (.inr hp) hq
  have last : u.offerPendingLast g = u := if_neg (by rw [none_]; exact Bool.false_ne_true)
  rw [last]
  refine ⟨L, ?_, ?_⟩ <;> rw [startDrain_eq]
  · exact finished.stall.trans sealed.stall
  · exact responses

theorem exec_publish {s : State} {m : Byte} (hs : s.fresh = true) (hm : m.toNat < 16) (hq : s.quiescing = false) :
    exec (.publish m) s = .next (State.replied
      ((arrange s.draws (namedGroups m)).foldl manualRequest (s.drew (namedGroups m).length, 0)).1 .ack
      [((arrange s.draws (namedGroups m)).foldl manualRequest (s.drew (namedGroups m).length, 0)).2, 0]) :=
  exec_accepted hs rfl ((if_neg (by omega)).trans (if_neg (by rw [hq]; exact Bool.false_ne_true)))

theorem namedGroups_twoPow (g : GroupId) : namedGroups (BitVec.twoPow 8 g.val) = [g] := by
  refine filter_allGroups_of_one fun k => ?_
  have := g.isLt
  rw [BitVec.getLsbD_twoPow, Bool.and_eq_true, decide_eq_true_eq, decide_eq_true_eq]
  exact ⟨fun h => Fin.ext h.2.symm, fun h => ⟨by omega, by rw [h]⟩⟩

end Sys2Proof.Machine

namespace Sys2Proof.Proofs

open Sys2Proof.Machine

/-- Settles O47: the requests of any mask in whatever order, and the one named group in all its records. -/
theorem publishSealsNamedGroups : Obligations.PublishSealsNamedGroups := by
  intro s m hs
  refine ⟨fun hm => exec_refused hs rfl (if_pos hm), fun hm hq => exec_refused hs rfl ((if_neg (by omega)).trans
    (if_pos hq)), fun hm hq hh => ?held, fun hq => ?zero, fun hm hq hh hst => ?seals, inFence_iff s, fun g hg hq hh => ?one⟩
  case held =>
    refine ⟨(s.drew (namedGroups m).length).draws, (exec_publish hs hm hq).trans ?_⟩
    rw [foldl_manualRequest_held (s := s.drew _) hh]
    rfl
  case zero => exact exec_publish (m := 0) hs (by decide) hq
  case seals =>
    have perm := arrange_perm s.draws (namedGroups m)
    have L := (PublishLeaves.start hst (namedGroups m).length).foldl (m := arrange s.draws (namedGroups m))
      (perm.nodup_iff.2 (namedGroups_nodup m)) hh hq
    rw [List.nil_append] at L
    have named : ∀ g : GroupId, g ∈ arrange s.draws (namedGroups m) ↔ m.getLsbD g.val = true :=
      fun g => perm.mem_iff.trans (mem_namedGroups m g)
    have run := exec_publish hs hm hq
    generalize (arrange s.draws (namedGroups m)).foldl manualRequest (s.drew (namedGroups m).length, 0) = q at L run
    refine ⟨_, q.2, run, rfl, fun j => (L.bits j).trans ?_, L.pool, L.stall, L.responses, L.timebase, L.hold,
      L.drainTags, L.channel, fun g => ⟨fun h => L.others g h, fun h => (L.taken g h).full,
        fun h => (L.taken g h).empty, fun h => (L.taken g h).pend⟩⟩
    refine exists_congr fun g => ?_
    rw [named]
    constructor
    · rintro ⟨rfl, hg, hn⟩
      exact ⟨rfl, hg, hn⟩
    · rintro ⟨rfl, hg, hn⟩
      exact ⟨rfl, hg, hn⟩
  case one =>
    have small : m.toNat < 16 := by
      rw [hg]
      fin_cases g <;> decide
    have run := exec_publish hs small hq
    rw [show namedGroups m = [g] by rw [hg]; exact namedGroups_twoPow g] at run
    have request : exec (.publish m) s = .next (State.replied (manualRequest (s, 0) g).1 .ack
        [(manualRequest (s, 0) g).2, 0]) := run
    have occupied : ∀ sl, s.groups[g].slot = some sl → manualRequest (s, 0) g = (s, 0) := fun sl hsl =>
      if_neg fun c => absurd (hsl.symm.trans ((canSeal_iff s g).1 c).2.2) nofun
    have sealed : s.groups[g].slot = none →
        exec (.publish m) s = .next (State.replied (s.sealManual g).retry .ack [m, 0]) := by
      intro hn
      have made : manualRequest (s, 0) g = ((s.sealManual g).retry, m) := by
        rw [hg]
        exact (if_pos ((canSeal_iff s g).2 ⟨hh, hq, hn⟩)).trans (congrArg (Prod.mk _) BitVec.zero_or)
      rw [request, made]
    have whole : 0 < s.openCount g → SealLeaves s (s.sealManual g) g .manual s.now ∧
        (s.sealManual g).pool = (s.pool.map fun e =>
          if e.group = g ∧ e.role = .opened then { e with role := .sealed, issued := false } else e) ∧
        (s.sealManual g).stall = s.stall ∧ (s.sealManual g).responses = s.responses := by
      intro hopen
      rw [sealManual_of_entries hopen]
      refine ⟨sealGroup_leaves .manual s.now hopen hq, sealGroup_pool s g .manual s.now, sealGroup_stall _ _ _ _, ?_⟩
      rw [sealGroup_eq]
    refine ⟨fun sl hsl => ?_, fun hn hcase => ?_, fun hn hst hopen hp => ?_, fun hn hst hopen => ?_⟩
    · rw [request, occupied sl hsl]
    · refine ⟨s.sealManual g, sealed hn, fun hopen => ?_, fun hopen => ?_, ?_⟩
      · obtain ⟨L, pool, -⟩ := whole hopen
        exact ⟨L, pool⟩
      · exact (sealManual_of_empty hopen (hcase.resolve_left (by omega)) hq).1
      · by_cases hopen : 0 < s.openCount g
        · exact (whole hopen).2.2
        · exact (sealManual_of_empty (by omega) (hcase.resolve_left hopen) hq).2
    · obtain ⟨L, stall, -⟩ := sealManual_of_empty hopen hp hq
      have run' := sealed hn
      rw [retry_of_empty (stall.trans hst)] at run'
      refine ⟨_, run', rfl, L.replied _ _, ?_⟩
      show (s.sealManual g).groups[g].dividerCount = 0
      rw [L.group]
      rfl
    · obtain ⟨L, pool, stall, -⟩ := whole hopen
      have run' := sealed hn
      rw [retry_of_empty (stall.trans hst)] at run'
      generalize s.sealManual g = v at L pool run'
      obtain ⟨sl, hsl, new⟩ := L.slot
      refine ⟨_, sl, run', rfl, L.replied _ _, hsl, new.gen, new.entries, new.written, new.failed, new.elapsed, ?_, ?_,
        L.seals, fun h hne => ?_, pool⟩
      · show v.groups[g].openGen = _
        rw [L.group]
      · show v.groups[g].dividerCount = 0
        rw [L.group]
        rfl
      · show v.groups[h].openGen = _ ∧ v.groups[h].dividerCount = _
        rw [L.others h hne]
        split
        · obtain e | ⟨-, e⟩ := withHeadDraining_advanced s s.ready h
          · rw [e]
            exact ⟨rfl, rfl⟩
          · rw [e]
            exact ⟨rfl, rfl⟩
        · exact ⟨rfl, rfl⟩

end Sys2Proof.Proofs
